-- ==== Sys2Proof/Word.lean ====
section
/-! DEFINITION. The core's words are mathematical integers without a bit width (00_scope.md R9). A stored value, an address and a code are
never negative (10_state.md R20, 20_memory.md R50, 30_encoding.md R77), so each is a `Nat`; an integer from outside, of any sign, is an
`Int` (log 14). Here stands the modular cell that bounds a value (10_state.md R20); its operations stand in Machine/Ops.lean. -/

namespace Sys2Proof

/-- 10_state.md R20: a storage slot, an integer kept in `[0, modulus)`. -/
structure ModularCell where
  /-- The stored, normalised integer. -/
  value : Nat
  /-- The wraparound boundary; no operation changes it. -/
  modulus : Nat
deriving DecidableEq, Repr

end Sys2Proof
end

