-- ==== Sys2Proof/Syntax.lean ====
section
/-! DEFINITION. The instructions: one constructor for each row of spec/opcode_table.json (30_encoding.md R74). The four UNMATCHED rows
are four constructors with one mnemonic; they carry the code itself, which is what a Decode error records (60_exceptions.md R161). -/

namespace Sys2Proof

/-- One decoded cell. An operand `x` is the absolute direct address `code mod 100` (30_encoding.md R72). -/
inductive Instr where
  /-- Row `0xx`, codes 0 to 99: halt. The low two digits are ignored (30_encoding.md R78), so there is no operand. -/
  | hlt
  /-- Row `1aa`: add a cell to the accumulator. -/
  | add (x : Nat)
  /-- Row `2aa`: subtract a cell from the accumulator and set the negative flag. -/
  | sub (x : Nat)
  /-- Row `3aa`: store the accumulator to a cell. -/
  | sta (x : Nat)
  /-- Row `5aa`: load a cell into the accumulator. -/
  | lda (x : Nat)
  /-- Row `6aa`: branch. -/
  | bra (x : Nat)
  /-- Row `7aa`: branch if the accumulator is zero. -/
  | brz (x : Nat)
  /-- Row `8aa`: branch if the negative flag is clear. -/
  | brp (x : Nat)
  /-- Row `901`: read an input item into the accumulator. -/
  | inp
  /-- Row `902`: emit the accumulator. -/
  | out
  /-- Row `4xx`: the unmatched codes 400 to 499. -/
  | unmatched4xx (code : Nat)
  /-- Row `900`: the unmatched code 900. -/
  | unmatched900
  /-- Row `9xx (903..999)`: the unmatched codes 903 to 999. -/
  | unmatched9xx (code : Nat)
  /-- Row `any code >= 1000`: unmatched, the table's ranges over the prose (90_conflicts.md C1). -/
  | unmatchedAbove999 (code : Nat)
deriving DecidableEq, Repr

/-- The name of the instruction's rule, its "diagnostic string" (40_cycle.md R94), as spec/opcode_table.json spells it. -/
def Instr.mnemonic : Instr → String
  | .hlt => "HLT"
  | .add _ => "ADD"
  | .sub _ => "SUB"
  | .sta _ => "STA"
  | .lda _ => "LDA"
  | .bra _ => "BRA"
  | .brz _ => "BRZ"
  | .brp _ => "BRP"
  | .inp => "INP"
  | .out => "OUT"
  | .unmatched4xx _ => "UNMATCHED"
  | .unmatched900 => "UNMATCHED"
  | .unmatched9xx _ => "UNMATCHED"
  | .unmatchedAbove999 _ => "UNMATCHED"

end Sys2Proof
end

