-- ==== Sys2Proof/WellFormed.lean ====
section
/-! DEFINITION. Which terms of `Instr` stand for a code: each operand lies in the range its row of spec/opcode_table.json gives it. -/

namespace Sys2Proof

/-- 30_encoding.md R72: an address field is two decimal digits, `[0, 99]`. -/
abbrev addressFits (x : Nat) : Bool := decide (x ≤ 99)

/-- 30_encoding.md R74, R83: the instruction has an encoding. -/
def Instr.wellFormed : Instr → Bool
  | .hlt => true
  | .add x => addressFits x
  | .sub x => addressFits x
  | .sta x => addressFits x
  | .lda x => addressFits x
  | .bra x => addressFits x
  | .brz x => addressFits x
  | .brp x => addressFits x
  | .inp => true
  | .out => true
  | .unmatched4xx code => decide (400 ≤ code ∧ code ≤ 499)
  | .unmatched900 => true
  | .unmatched9xx code => decide (903 ≤ code ∧ code ≤ 999)
  | .unmatchedAbove999 code => decide (1000 ≤ code)

end Sys2Proof
end

