-- ==== Sys2Proof/Decode.lean ====
section
/-! DEFINITION. Decode, total on every code (30_encoding.md R74), and after it the encoder (R83). A cell has no byte structure
(20_memory.md R53), so what is decoded is the cell's integer. -/

namespace Sys2Proof

/-- 30_encoding.md R72: the opcode digit `c[2]`, the hundreds digit. -/
def opcodeDigit (code : Nat) : Nat := code / 100

/-- 30_encoding.md R72: the address field `c[1:0]`, the last two decimal digits, used as an unsigned index as it is. -/
def addressField (code : Nat) : Nat := code % 100

/-- 30_encoding.md R74: the complete decode, its ranges in the order the spec writes them. Nothing falls through to a neighbour: what
no range holds is UNMATCHED, by the row it lies in (30_encoding.md R76, R80). -/
def decode (code : Nat) : Instr :=
  if 100 ≤ code ∧ code ≤ 199 then .add (addressField code)
  else if 200 ≤ code ∧ code ≤ 299 then .sub (addressField code)
  else if 300 ≤ code ∧ code ≤ 399 then .sta (addressField code)
  else if 500 ≤ code ∧ code ≤ 599 then .lda (addressField code)
  else if 600 ≤ code ∧ code ≤ 699 then .bra (addressField code)
  else if 700 ≤ code ∧ code ≤ 799 then .brz (addressField code)
  else if 800 ≤ code ∧ code ≤ 899 then .brp (addressField code)
  else if code = 901 then .inp
  else if code = 902 then .out
  else if code < 100 then .hlt
  else if 400 ≤ code ∧ code ≤ 499 then .unmatched4xx code
  else if code = 900 then .unmatched900
  else if 903 ≤ code ∧ code ≤ 999 then .unmatched9xx code
  else .unmatchedAbove999 code

/-- 30_encoding.md R80: the codes for which the spec's `decode` returns UNMATCHED. -/
abbrev unmatchedCode (code : Nat) : Prop :=
  (400 ≤ code ∧ code ≤ 499) ∨ code = 900 ∨ 903 ≤ code

/-- 30_encoding.md R83: the code of an instruction. HLT has a hundred codes; 000 is the one the spec writes. -/
def encode : Instr → Nat
  | .hlt => 0
  | .add x => 100 + x
  | .sub x => 200 + x
  | .sta x => 300 + x
  | .lda x => 500 + x
  | .bra x => 600 + x
  | .brz x => 700 + x
  | .brp x => 800 + x
  | .inp => 901
  | .out => 902
  | .unmatched4xx code => code
  | .unmatched900 => 900
  | .unmatched9xx code => code
  | .unmatchedAbove999 code => code

/-- The instruction the decoder reads from a word of spec/opcode_table.json. The table's radix is 10 and its words are the cell values
`code_min` to `code_max`, so `w` is the code itself and the number of bits says nothing (20_memory.md R53). DESIGN CHOICE, log 12. -/
def decodeTableWord (_nbits w : Nat) : Option Instr := some (decode w)

end Sys2Proof
end

