-- ==== Sys2Proof/Config.lean ====
section
/-! DEFINITION. The construction parameters of the core (00_scope.md R6). The spec leaves no value of any instruction open, so there
is no free value here. -/

namespace Sys2Proof

/-- 00_scope.md R8: how a code that no instruction rule matches is treated. -/
inductive DecodePolicy where
  /-- An unmatched code is a silent no-op cycle (the default). -/
  | permissive
  /-- An unmatched code raises Decode. -/
  | strict
deriving DecidableEq, Repr

/-- 10_state.md R34: the constants of one engine, fixed for its life. `P` and `N` are two independent moduli and are never unified
(00_scope.md R9). -/
structure Config where
  /-- `P`, globalModulus: every accumulator and memory value lies in `[0, P)`. -/
  globalModulus : Nat
  /-- `N`, memorySize: the number of cells and the modulus of the program counter. -/
  memorySize : Nat
  /-- `POLICY`. -/
  policy : DecodePolicy
deriving DecidableEq, Repr

/-- 00_scope.md R6: what the host hands to construction, with the source's defaults. Every integer may have any sign here; the checks
and the normalisation are construction's (Machine/Construct.lean). -/
structure Construction where
  /-- `PROGRAM`, programCodes: required, it has no default. -/
  program : List Int
  /-- `N`, memorySize. -/
  memorySize : Int := 100
  /-- `P`, globalModulus. -/
  globalModulus : Int := 1000
  /-- `ACC0`, accumulatorStart. -/
  accumulatorStart : Int := 0
  /-- `PC0`, programCounterStart. -/
  programCounterStart : Int := 0
  /-- `NEG0`, negativeFlagStart (70_reset_and_hazards.md R193). -/
  negativeFlagStart : Bool := false
  /-- `POLICY`. -/
  policy : DecodePolicy := .permissive
deriving DecidableEq, Repr

end Sys2Proof
end

