-- ==== Sys2Proof/Machine/State.lean ====
section
/-! DEFINITION. The whole state of one engine as plain data (10_state.md R35), the reasons a step can stop, and the state after
reset. -/

namespace Sys2Proof.Machine

/-- 60_exceptions.md R161: the errors that a cycle can raise, with the info recorded for each. They end the run in the state
`STOPPED(kind)`, which is a next state of the machine (log 4). -/
inductive ErrorKind where
  /-- ADD, SUB, STA or LDA at an address that is not below `N`; the address is recorded. -/
  | outOfBounds (address : Nat)
  /-- INP with no input item left. -/
  | inputExhausted
  /-- An unmatched code under the strict policy; the code is recorded. -/
  | decode (code : Nat)
deriving DecidableEq, Repr

/-- 10_state.md R30: the run state, which is the `status` output of 10_state.md R40. -/
inductive RunState where
  /-- Cycles run. -/
  | running
  /-- HLT has run; terminal. -/
  | halted
  /-- An error has ended the run; terminal. -/
  | stopped (kind : ErrorKind)
deriving DecidableEq, Repr

/-- 10_state.md R40: the answer of the input channel to one request. -/
inductive InResponse where
  /-- The next item, an integer of any sign and size. -/
  | item (r : Int)
  /-- No item remains. -/
  | exhausted
deriving DecidableEq, Repr

/-- Why no engine exists. -/
inductive Fault where
  /-- ConfigurationError (00_scope.md R7, 70_reset_and_hazards.md R192): raised by construction alone, for a modulus or memory size
  that is not positive or a program longer than memory. Safe: no machine exists then, so no claim about one can be proved. -/
  | configuration
deriving DecidableEq, Repr

/-- Why a step has no meaning. -/
inductive Refusal where
  /-- The host's reason for an instruction that has no meaning yet. No arm of this model raises it. Safe. -/
  | notModelled (mnemonic : String)
  /-- Raised by `step` on an engine whose run has ended, with the run state it ended in: there is no step in `HALTED` and `STOPPED`
  (10_state.md R41, 93_implementation_defined.md "Re-running a stopped engine"). Safe: the model says nothing where the engine does
  nothing. DESIGN CHOICE, log 5. -/
  | notRunning (run : RunState)
deriving DecidableEq, Repr

/-- One listed memory cell: its address and its value, an integer without a width (20_memory.md R53). -/
abbrev Cell := Nat × Nat

/-- The memory bank as the list of the cells that do not read as 0, addresses strictly rising (20_memory.md R50; log 2). -/
abbrev Memory := List Cell

/-- 10_state.md R35: the state of one engine, with the constants of 10_state.md R34 beside it (log 1). -/
structure State where
  /-- `(P, N, POLICY)`, which no step changes. -/
  cfg : Config
  /-- `M`, the memory bank. -/
  mem : Memory
  /-- `ACC`, in `[0, P)` (10_state.md R22). -/
  acc : Nat
  /-- `PC`, in `[0, N)` (10_state.md R23). -/
  pc : Nat
  /-- `NEG` (10_state.md R25). -/
  neg : Bool
  /-- `HALT` (10_state.md R26). -/
  halt : Bool
  /-- The run state (10_state.md R30). -/
  run : RunState
  /-- The input items not yet consumed (10_state.md R31). -/
  input : List Int
  /-- The values OUT has emitted, oldest first (10_state.md R32). -/
  output : List Nat
deriving DecidableEq, Repr

/-- 70_reset_and_hazards.md R190 at the default parameters. The program and the input are the host's and have no default: here both are
empty. DESIGN CHOICE, log 3. -/
def State.reset : State where
  cfg := ⟨1000, 100, .permissive⟩
  mem := []
  acc := 0
  pc := 0
  neg := false
  halt := false
  run := .running
  input := []
  output := []

end Sys2Proof.Machine
end

