-- ==== Sys2Proof/Machine/Ops.lean ====
section
/-! DEFINITION. The named operations over cells, memory, registers and channels, and the one way an error is taken. -/

namespace Sys2Proof

/-! ## The modular cell (10_state.md R20, R21) -/

/-- `r mod m` of 00_scope.md R11: the true mathematical remainder, for an integer of any sign. -/
def normalise (r : Int) (m : Nat) : Nat := (r % (m : Int)).toNat

/-- `construct(rawValue, modulus)`: a configuration error if the modulus is not positive (10_state.md R21, 70_reset_and_hazards.md
R192). -/
def ModularCell.construct (raw modulus : Int) : Except Machine.Fault ModularCell :=
  if modulus ≤ 0 then .error .configuration
  else .ok ⟨normalise raw modulus.toNat, modulus.toNat⟩

/-- `read()`: the normalised integer. -/
def ModularCell.read (c : ModularCell) : Nat := c.value

/-- `assign(r)`: stores `r mod m`. -/
def ModularCell.assign (c : ModularCell) (r : Int) : ModularCell := { c with value := normalise r c.modulus }

/-- `add(k)`: the pure sum `(value + k) mod m`; the cell is not changed. -/
def ModularCell.add (c : ModularCell) (k : Int) : Nat := normalise (c.value + k) c.modulus

/-- `subtract(k)`: the pure difference `(value - k) mod m`; the cell is not changed. -/
def ModularCell.subtract (c : ModularCell) (k : Int) : Nat := normalise (c.value - k) c.modulus

/-- The in-place add: stores what `add` returns. The value it returns is the updated cell's `read`. -/
def ModularCell.addInPlace (c : ModularCell) (k : Int) : ModularCell := { c with value := c.add k }

/-- The in-place subtract: stores what `subtract` returns. The value it returns is the updated cell's `read`. -/
def ModularCell.subtractInPlace (c : ModularCell) (k : Int) : ModularCell := { c with value := c.subtract k }

/-- Equality compares the normalised value with an integer. -/
def ModularCell.equalsInt (c : ModularCell) (k : Int) : Bool := decide ((c.value : Int) = k)

/-- Ordering compares the normalised value with an integer. -/
def ModularCell.lessThanInt (c : ModularCell) (k : Int) : Bool := decide ((c.value : Int) < k)

namespace Machine

/-! ## Memory as data -/

/-- What an unlisted cell reads as: 70_reset_and_hazards.md R191 (decision D7). UNVERIFIED in the source, log 2. -/
def Memory.unlisted : Nat := 0

/-- The value of a cell, whatever its address. -/
def Memory.peek : Memory → Nat → Nat
  | [], _ => Memory.unlisted
  | (b, v) :: rest, a => if b = a then v else Memory.peek rest a

/-- Replace one cell, keeping the canonical form: writing what an unlisted cell reads as removes the entry. -/
def Memory.put : Memory → Nat → Nat → Memory
  | [], a, v => if v = Memory.unlisted then [] else [(a, v)]
  | (b, w) :: rest, a, v =>
    if a < b then
      if v = Memory.unlisted then (b, w) :: rest else (a, v) :: (b, w) :: rest
    else if a = b then
      if v = Memory.unlisted then rest else (a, v) :: rest
    else (b, w) :: Memory.put rest a v

/-- The canonical form: addresses strictly rising, no entry equal to what an unlisted cell reads as. -/
abbrev Memory.wf (m : Memory) : Prop :=
  m.Pairwise (fun c d => c.1 < d.1) ∧ ∀ c ∈ m, c.2 ≠ Memory.unlisted

/-- 20_memory.md R50: every listed cell is one of the `N` cells and holds an integer in `[0, P)`. -/
abbrev Memory.fits (m : Memory) (cfg : Config) : Prop :=
  ∀ c ∈ m, c.1 < cfg.memorySize ∧ c.2 < cfg.globalModulus

/-! ## Registers: each is a modular cell seen through the state (10_state.md R22, R23), written through it -/

/-- `ACC` as a modular cell of modulus `P`. -/
def State.accCell (s : State) : ModularCell := ⟨s.acc, s.cfg.globalModulus⟩

/-- `PC` as a modular cell of modulus `N`. -/
def State.pcCell (s : State) : ModularCell := ⟨s.pc, s.cfg.memorySize⟩

/-- Memory cell `a` as a modular cell of modulus `P`. -/
def State.memCell (s : State) (a : Nat) : ModularCell := ⟨s.mem.peek a, s.cfg.globalModulus⟩

/-- Write `ACC` from a cell: the value is copied, never aliased (10_state.md R27). -/
def State.putAcc (s : State) (c : ModularCell) : State := { s with acc := c.value }

/-- Write `PC` from a cell. -/
def State.putPc (s : State) (c : ModularCell) : State := { s with pc := c.value }

/-- Write memory cell `a` from a cell: the value is copied, never aliased (90_conflicts.md C8). -/
def State.putMem (s : State) (a : Nat) (c : ModularCell) : State := { s with mem := s.mem.put a c.value }

/-- Write `NEG`. -/
def State.setNeg (s : State) (b : Bool) : State := { s with neg := b }

/-! ## The bank primitives (20_memory.md R51) -/

/-- `MemRead(a, 1)`. An address is never negative here: it is the program counter or two decimal digits. -/
def memRead (s : State) (a : Nat) : Except ErrorKind Nat :=
  if a < s.cfg.memorySize then .ok (s.memCell a).read else .error (.outOfBounds a)

/-- `MemWrite(a, 1, v)`: `M[a] <- v mod P`; a failing access changes no cell. It is `set(index, rawOrCell)`: a cell stored is a copy of its
value (90_conflicts.md C8). -/
def memWrite (s : State) (a : Nat) (v : Int) : Except ErrorKind State :=
  if a < s.cfg.memorySize then .ok (s.putMem a ((s.memCell a).assign v)) else .error (.outOfBounds a)

/-! ## The channels (44_io.md R144) -/

/-- What the input channel answers to the next request: the finite sequence fixed at launch (decision D3). UNVERIFIED, log 6. -/
def State.inResponse (s : State) : InResponse :=
  match s.input with
  | [] => .exhausted
  | r :: _ => .item r

/-- The channel after one item has been taken. -/
def State.consume (s : State) : State := { s with input := s.input.tail }

/-- `OutWrite(v)`: the sink takes one value and never fails (decision D4). UNVERIFIED, log 7. -/
def State.emit (s : State) (v : Nat) : State := { s with output := s.output ++ [v] }

/-! ## Ending a run -/

/-- Taking an error, `raise E(info)`: the run stops in `STOPPED(kind)`; every effect already applied stays and nothing else changes, so
`HALT` stays false (60_exceptions.md R162, R163). There is no handler to enter and no return from it (R165, R166). -/
def State.raise (s : State) (e : ErrorKind) : State := { s with run := .stopped e }

/-- The halt effect: `HALT <- true`, `run <- HALTED` (45_halt_unmatched.md R150). -/
def State.haltNow (s : State) : State := { s with halt := true, run := .halted }

/-- The end of an execute phase: its result, or the error it raised, taken in the state `s` that held when it was raised. -/
def finish (s : State) (r : Except ErrorKind State) : Host.Outcome State Fault Refusal :=
  match r with
  | .ok t => .next t
  | .error e => .next (s.raise e)

/-! ## Fetch and advance (40_cycle.md R90) -/

/-- 40_cycle.md R91: `code := memory.get(programCounter)`. -/
def fetch (s : State) : Except ErrorKind Nat := memRead s s.pc

/-- 40_cycle.md R92: `PC <- (PC + 1) mod N`, before the instruction runs. -/
def State.advance (s : State) : State := s.putPc (s.pcCell.addInPlace 1)

end Machine
end Sys2Proof
end

