-- ==== Sys2Proof/Machine/Flags.lean ====
section
/-! DEFINITION. The flag computations. `NEG` is the only computed flag (41_arithmetic.md R114). -/

namespace Sys2Proof.Machine

/-- 41_arithmetic.md R112: whether the true, unwrapped difference is negative, from the values before the subtraction. -/
def negOfDifference (acc v : Nat) : Bool := decide ((acc : Int) - (v : Int) < 0)

end Sys2Proof.Machine
end

