-- ==== Sys2Proof/Machine/Operands.lean ====
section
/-! DEFINITION. The operand forms. There is one, the absolute direct address of two decimal digits (20_memory.md R56): as a data
address it must lie in the bank, as a branch target it wraps. -/

namespace Sys2Proof.Machine

/-- 20_memory.md R56: absolute direct addressing; no index, no indirection, no base, no modification. An address that is not below `N`
is fatal and does not wrap (R58). -/
def readOperand (s : State) (x : Nat) : Except ErrorKind Nat := memRead s x

/-- 20_memory.md R56, R58: the same address as the destination of a store. -/
def writeOperand (s : State) (x : Nat) (v : Int) : Except ErrorKind State := memWrite s x v

/-- 43_branch.md R130: an absolute branch target, `PC <- x mod N`. A target is no memory reference: it wraps and never raises
(90_conflicts.md C2, decision D8; UNVERIFIED, log 8). -/
def branchTo (s : State) (x : Nat) : State := s.putPc (s.pcCell.assign x)

end Sys2Proof.Machine
end

