-- ==== Sys2Proof/Machine/Arithmetic.lean ====
section
/-! DEFINITION. ADD and SUB (41_arithmetic.md). Each runs in the execute phase: the program counter has already advanced. -/

namespace Sys2Proof.Machine

/-- 41_arithmetic.md R110. -/
def execAdd (x : Nat) (s : State) : Host.Outcome State Fault Refusal :=
  finish s <| match readOperand s x with
    | .ok v => .ok (s.putAcc (s.accCell.addInPlace v))
    | .error e => .error e

/-- 41_arithmetic.md R112: `NEG` is set from the true difference before the modular result is stored. -/
def execSub (x : Nat) (s : State) : Host.Outcome State Fault Refusal :=
  finish s <| match readOperand s x with
    | .ok v => .ok ((s.setNeg (negOfDifference s.acc v)).putAcc (s.accCell.subtractInPlace v))
    | .error e => .error e

end Sys2Proof.Machine
end

