-- ==== Sys2Proof/Machine/Branch.lean ====
section
/-! DEFINITION. BRA, BRZ and BRP (43_branch.md). Each runs in the execute phase: a taken branch overwrites the advanced program counter
(40_cycle.md R93), one that is not taken leaves it. -/

namespace Sys2Proof.Machine

/-- 43_branch.md R130. -/
def execBra (x : Nat) (s : State) : Host.Outcome State Fault Refusal :=
  .next (branchTo s x)

/-- 43_branch.md R132: the test is on the normalised accumulator. -/
def execBrz (x : Nat) (s : State) : Host.Outcome State Fault Refusal :=
  .next (if s.accCell.equalsInt 0 then branchTo s x else s)

/-- 43_branch.md R134: the accumulator is not examined. -/
def execBrp (x : Nat) (s : State) : Host.Outcome State Fault Refusal :=
  .next (if s.neg = false then branchTo s x else s)

end Sys2Proof.Machine
end

