-- ==== Sys2Proof/Machine/Halt.lean ====
section
/-! DEFINITION. HLT and the unmatched codes (45_halt_unmatched.md). -/

namespace Sys2Proof.Machine

/-- 45_halt_unmatched.md R150: the halt does not undo the advance. -/
def execHlt (s : State) : Host.Outcome State Fault Refusal := .next s.haltNow

/-- 45_halt_unmatched.md R152: nothing under PERMISSIVE, the error Decode(code) under STRICT. -/
def unmatchedCycle (code : Nat) (s : State) : Host.Outcome State Fault Refusal :=
  finish s <| match s.cfg.policy with
    | .permissive => .ok s
    | .strict => .error (.decode code)

/-- Codes 400 to 499 (45_halt_unmatched.md R152). -/
def execUnmatched4xx (code : Nat) (s : State) : Host.Outcome State Fault Refusal := unmatchedCycle code s

/-- The code 900 (45_halt_unmatched.md R152). -/
def execUnmatched900 (s : State) : Host.Outcome State Fault Refusal := unmatchedCycle 900 s

/-- Codes 903 to 999 (45_halt_unmatched.md R152). -/
def execUnmatched9xx (code : Nat) (s : State) : Host.Outcome State Fault Refusal := unmatchedCycle code s

/-- Codes from 1000 on (45_halt_unmatched.md R152; decision D9; UNVERIFIED, log 9). -/
def execUnmatchedAbove999 (code : Nat) (s : State) : Host.Outcome State Fault Refusal := unmatchedCycle code s

end Sys2Proof.Machine
end

