-- ==== Sys2Proof/Machine/InputOutput.lean ====
section
/-! DEFINITION. INP and OUT (44_io.md). -/

namespace Sys2Proof.Machine

/-- 44_io.md R140: one item is consumed; with none left InputExhausted is raised and the accumulator keeps its value. -/
def execInp (s : State) : Host.Outcome State Fault Refusal :=
  finish s <| match s.inResponse with
    | .item r => .ok (s.consume.putAcc (s.accCell.assign r))
    | .exhausted => .error .inputExhausted

/-- 44_io.md R142: the emitted value is the normalised one. -/
def execOut (s : State) : Host.Outcome State Fault Refusal :=
  .next (s.emit s.accCell.read)

end Sys2Proof.Machine
end

