-- ==== Sys2Proof/Machine/Transfer.lean ====
section
/-! DEFINITION. STA and LDA (42_transfer.md). Each runs in the execute phase: the program counter has already advanced. -/

namespace Sys2Proof.Machine

/-- 42_transfer.md R120. -/
def execSta (x : Nat) (s : State) : Host.Outcome State Fault Refusal :=
  finish s (writeOperand s x s.accCell.read)

/-- 42_transfer.md R122. -/
def execLda (x : Nat) (s : State) : Host.Outcome State Fault Refusal :=
  finish s <| match readOperand s x with
    | .ok v => .ok (s.putAcc (s.accCell.assign v))
    | .error e => .error e

end Sys2Proof.Machine
end

