-- ==== Sys2Proof/Machine/Dispatch.lean ====
section
/-! DEFINITION. The execute phase of one cycle, one arm per constructor (40_cycle.md R94). -/

namespace Sys2Proof.Machine

/-- 40_cycle.md R94: execute a decoded instruction, in a state whose program counter has already advanced. -/
def exec (i : Instr) (s : State) : Host.Outcome State Fault Refusal :=
  match i with
  | .hlt => Sys2Proof.Machine.execHlt s
  | .add x => Sys2Proof.Machine.execAdd x s
  | .sub x => Sys2Proof.Machine.execSub x s
  | .sta x => Sys2Proof.Machine.execSta x s
  | .lda x => Sys2Proof.Machine.execLda x s
  | .bra x => Sys2Proof.Machine.execBra x s
  | .brz x => Sys2Proof.Machine.execBrz x s
  | .brp x => Sys2Proof.Machine.execBrp x s
  | .inp => Sys2Proof.Machine.execInp s
  | .out => Sys2Proof.Machine.execOut s
  | .unmatched4xx code => Sys2Proof.Machine.execUnmatched4xx code s
  | .unmatched900 => Sys2Proof.Machine.execUnmatched900 s
  | .unmatched9xx code => Sys2Proof.Machine.execUnmatched9xx code s
  | .unmatchedAbove999 code => Sys2Proof.Machine.execUnmatchedAbove999 code s

end Sys2Proof.Machine
end

