-- ==== Sys2Proof/Machine/Step.lean ====
section
/-! DEFINITION. One cycle: fetch, advance, decode and execute (40_cycle.md R90, R96). -/

namespace Sys2Proof.Machine

/-- 40_cycle.md R96. An engine whose run has ended takes no step (10_state.md R41): the request is refused by name, log 5. The error arm
of the fetch is `memory.get` as 20_memory.md R51 gives it; no engine reaches it, its program counter lies in `[0, N)` (40_cycle.md
R91; log 19). -/
def step (s : State) : Host.Outcome State Fault Refusal :=
  match s.run with
  | .running =>
    match fetch s with
    | .ok code => exec (decode code) s.advance
    | .error e => .next (s.raise e)
  | .halted => .refused (.notRunning .halted)
  | .stopped e => .refused (.notRunning (.stopped e))

/-- The state with the code `w` in the cell that the next cycle fetches, which stands for a program load from outside (log 3). A code
of `P` or more exists only under a larger modulus (30_encoding.md R76), so `P` is raised to hold it; nothing else changes. DESIGN
CHOICE, log 13. -/
def State.withFetchWord (s : State) (_nbits w : Nat) : State :=
  { s with
    cfg := { s.cfg with globalModulus := max s.cfg.globalModulus (w + 1) }
    mem := s.mem.put s.pc w }

end Sys2Proof.Machine
end

