-- ==== Sys2Proof/Machine/Dispatcher.lean ====
section
/-! DEFINITION. The dispatcher as the source describes it: an ordered table of instruction rules, first match wins (40_cycle.md R94,
R95). `step` runs `exec (decode code)`; that the two agree is a statement for the provers. -/

namespace Sys2Proof.Machine

/-- 40_cycle.md R94: one instruction rule. A predicate reads only the code (R95). -/
structure InstructionRule where
  /-- The diagnostic string: the mnemonic. -/
  name : String
  /-- Which codes the rule matches. -/
  predicate : Nat → Bool
  /-- What a matched code does to the engine. -/
  effect : Nat → State → Host.Outcome State Fault Refusal

/-- A rule for the codes of one hundred, with their two low digits as the operand (30_encoding.md R73, format MA). -/
def InstructionRule.hundred (name : String) (digit : Nat)
    (effect : Nat → State → Host.Outcome State Fault Refusal) : InstructionRule :=
  ⟨name, fun code => decide (opcodeDigit code = digit), fun code s => effect (addressField code) s⟩

/-- A rule for one exact code (30_encoding.md R73, format LIT). -/
def InstructionRule.literal (name : String) (value : Nat)
    (effect : State → Host.Outcome State Fault Refusal) : InstructionRule :=
  ⟨name, fun code => decide (code = value), fun _ s => effect s⟩

/-- The ten instruction rules, in the order of the decode function of 30_encoding.md R74. -/
def instructionTable : List InstructionRule :=
  [.hundred "ADD" 1 execAdd, .hundred "SUB" 2 execSub, .hundred "STA" 3 execSta, .hundred "LDA" 5 execLda,
    .hundred "BRA" 6 execBra, .hundred "BRZ" 7 execBrz, .hundred "BRP" 8 execBrp,
    .literal "INP" 901 execInp, .literal "OUT" 902 execOut,
    ⟨"HLT", fun code => decide (code < 100), fun _ s => execHlt s⟩]

/-- `attempt(code, engine)`: the effect's outcome if the rule matches, `none` (skipped, no side effect) if it does not. -/
def InstructionRule.attempt (r : InstructionRule) (code : Nat) (s : State) :
    Option (Host.Outcome State Fault Refusal) :=
  if r.predicate code then some (r.effect code s) else none

/-- `dispatch(code, engine)`: the first rule of the table that executes; if none does, the unmatched policy (45_halt_unmatched.md
R152). -/
def dispatch (table : List InstructionRule) (code : Nat) (s : State) : Host.Outcome State Fault Refusal :=
  match table with
  | [] => unmatchedCycle code s
  | r :: rest =>
    match r.attempt code s with
    | some o => o
    | none => dispatch rest code s

end Sys2Proof.Machine
end

