-- ==== Sys2Proof/Machine/Engines.lean ====
section
/-! DEFINITION. Several engines as a product of independent machines (20_memory.md R64, 60_exceptions.md R172): each has its own state
and its own channel, and one of them takes a cycle at a time (log 17). -/

namespace Sys2Proof.Machine

/-- Engine `k` of the list takes one cycle; `none` if there is no engine `k` or it takes no step. -/
def stepEngine (k : Nat) (engines : List State) : Option (List State) :=
  match engines[k]? with
  | none => none
  | some s =>
    match step s with
    | .next t => some (engines.set k t)
    | .fault _ => none
    | .refused _ => none

end Sys2Proof.Machine
end

