-- ==== Sys2Proof/Machine/Interface.lean ====
section
/-! DEFINITION. The external interface of 10_state.md R40 as functions of the state before a cycle: what the cycle asks of the input
channel, what it hands to the output sink, and the status output with the codes of 60_exceptions.md R161 (decisions D2, D6; UNVERIFIED,
log 21). `cfg` is construction (Machine/Construct.lean) and `step` is one cycle (Machine/Step.lean). -/

namespace Sys2Proof.Machine

/-- The instruction the next cycle runs, if one does. -/
def State.nextInstr (s : State) : Option Instr :=
  match s.run, fetch s with
  | .running, .ok code => some (decode code)
  | _, _ => none

/-- `in_req`: the cycle asks the input channel for an item. One request per INP (44_io.md R144). -/
def State.inReq (s : State) : Bool := decide (s.nextInstr = some .inp)

/-- `in_resp`: the channel's answer, when the cycle asks. -/
def State.inResp (s : State) : Option InResponse := if s.inReq then some s.inResponse else none

/-- `out_data`: the value the cycle emits. One event per OUT (44_io.md R144). -/
def State.outData (s : State) : Option Nat :=
  if s.nextInstr = some .out then some s.accCell.read else none

/-- `status`: the run state. -/
def State.status (s : State) : RunState := s.run

/-- 60_exceptions.md R161: the numeric code of an error that a cycle raises. -/
def ErrorKind.code : ErrorKind → Nat
  | .outOfBounds _ => 1
  | .inputExhausted => 2
  | .decode _ => 3

/-- 60_exceptions.md R161: the info recorded with an error. -/
def ErrorKind.info : ErrorKind → Option Nat
  | .outOfBounds a => some a
  | .inputExhausted => none
  | .decode c => some c

/-- 60_exceptions.md R161: the status code of a run state, 0 for RUNNING and HALTED. -/
def RunState.code : RunState → Nat
  | .running => 0
  | .halted => 0
  | .stopped e => e.code

/-- 60_exceptions.md R161: the info on the status output. -/
def RunState.info : RunState → Option Nat
  | .running => none
  | .halted => none
  | .stopped e => e.info

/-- 60_exceptions.md R161: the code of a ConfigurationError, which never appears in a run. -/
def Fault.code : Fault → Nat
  | .configuration => 4

end Sys2Proof.Machine
end

