-- ==== Sys2Proof/Machine/Construct.lean ====
section
/-! DEFINITION. Construction, the core's only reset (70_reset_and_hazards.md R190 to R192). -/

namespace Sys2Proof.Machine

/-- 70_reset_and_hazards.md R191: the elements of the program go to the cells from address `i` on, in order, each normalised. -/
def loadFrom (modulus : Nat) : Nat → List Int → Memory → Memory
  | _, [], m => m
  | i, r :: rest, m => loadFrom modulus (i + 1) rest (m.put i (normalise r modulus))

/-- 70_reset_and_hazards.md R190: `create(…)`, with the host's whole input sequence (decision D3). A failed check is a
ConfigurationError and there is no engine; the order of the two checks cannot be observed (R192). -/
def create (k : Construction) (input : List Int) : Host.Outcome State Fault Refusal :=
  if k.globalModulus ≤ 0 ∨ k.memorySize ≤ 0 then .fault .configuration
  else if k.memorySize < k.program.length then .fault .configuration
  else
    let cfg : Config := ⟨k.globalModulus.toNat, k.memorySize.toNat, k.policy⟩
    .next
      { cfg := cfg
        mem := loadFrom cfg.globalModulus 0 k.program []
        acc := normalise k.accumulatorStart cfg.globalModulus
        pc := normalise k.programCounterStart cfg.memorySize
        neg := k.negativeFlagStart
        halt := false
        run := .running
        input := input
        output := [] }

end Sys2Proof.Machine
end

