-- ==== Sys2Proof/Machine/Run.lean ====
section
/-! DEFINITION. `run()` under a host's step ceiling (40_cycle.md R98 to R100). -/

namespace Sys2Proof.Machine

/-- 40_cycle.md R100: a run has ended exactly when the run state is HALTED or STOPPED. -/
abbrev State.ended (s : State) : Prop := s.run ≠ .running

/-- 40_cycle.md R98: cycles run while the run state is RUNNING, at most `fuel` of them (R99). On an engine that has ended no cycle runs
and nothing changes. -/
def runFor : Nat → State → Host.Outcome State Fault Refusal
  | 0, s => .next s
  | fuel + 1, s =>
    match s.run with
    | .running =>
      match step s with
      | .next t => runFor fuel t
      | .fault f => .fault f
      | .refused r => .refused r
    | .halted => .next s
    | .stopped _ => .next s

/-- How many cycles `runFor` runs (00_scope.md R12: a cycle is one fetch, one advance, one dispatch). -/
def cyclesFor : Nat → State → Nat
  | 0, _ => 0
  | fuel + 1, s =>
    match s.run with
    | .running =>
      match step s with
      | .next t => cyclesFor fuel t + 1
      | .fault _ => 0
      | .refused _ => 0
    | .halted => 0
    | .stopped _ => 0

end Sys2Proof.Machine
end

