-- ==== Sys2Proof/Safety.lean ====
section
/-! DEFINITION. What the claims speak of: the invariant of an engine's state, a run that is safe, a run that has finished. -/

namespace Sys2Proof.Machine

/-- What holds of every state of an engine, from construction on. -/
structure State.Inv (s : State) : Prop where
  /-- 00_scope.md R6: `P ≥ 1`. -/
  modulus_pos : 0 < s.cfg.globalModulus
  /-- 00_scope.md R6: `N ≥ 1`. -/
  size_pos : 0 < s.cfg.memorySize
  /-- The memory keeps its canonical form (log 2). -/
  mem_wf : s.mem.wf
  /-- 20_memory.md R50: every listed cell is in the bank and holds an integer in `[0, P)`. -/
  mem_fits : s.mem.fits s.cfg
  /-- 10_state.md R22: `ACC` is in `[0, P)`. -/
  acc_lt : s.acc < s.cfg.globalModulus
  /-- 10_state.md R23: `PC` is in `[0, N)`. -/
  pc_lt : s.pc < s.cfg.memorySize
  /-- 10_state.md R35: `run = HALTED` exactly when `HALT = true`. -/
  halt_iff : s.run = .halted ↔ s.halt = true
  /-- 10_state.md R35: every emitted value is in `[0, P)`. -/
  output_lt : ∀ v ∈ s.output, v < s.cfg.globalModulus

/-- 40_cycle.md R100: the program finished, which a stop by error is not. -/
abbrev State.finished (s : State) : Prop := s.run = .halted

/-- The state is no stop by error. -/
abbrev State.noError (s : State) : Prop := ∀ e, s.run ≠ .stopped e

/-- An engine that takes no error in its next `n` cycles, whatever its program: no error so far, every two-digit address in the bank
(20_memory.md R57), no Decode error (00_scope.md R8), and an input item for each cycle (44_io.md R140). -/
structure State.SafeWithInput (n : Nat) (s : State) : Prop where
  /-- The state is an engine's. -/
  inv : s.Inv
  /-- No error has ended the run. -/
  noError : s.noError
  /-- `N ≥ 100`. -/
  size : 100 ≤ s.cfg.memorySize
  /-- An unmatched code is a no-op. -/
  policy : s.cfg.policy = .permissive
  /-- At least `n` items are left. -/
  items : n ≤ s.input.length

/-- A safe run: within `fuel` cycles the engine takes no error. -/
def safeFor (fuel : Nat) (s : State) : Prop :=
  ∀ k ≤ fuel, ∃ t, runFor k s = .next t ∧ t.noError

end Sys2Proof.Machine
end

