-- ==== Sys2Proof/Certificates/Slice0/Obligations.lean ====
section
/-! DEFINITION. The statements for the provers. Throughout, `s.mem.peek a` is the model's read of the one cell `a`, and a conclusion
`exec i s = .next t` with `t` written as an update of `s` is the instruction's completion, its result and its frame at once. -/

open Sys2Proof Sys2Proof.Machine

/-! ## Cells -/

/-- 10_state.md R20: a write stores the true remainder, a read returns it, the modulus never changes, and every storage slot of an engine
(the accumulator, the program counter, each memory cell) is such a cell with its value in range. -/
def Obligations.CellWriteStoresTrueRemainder : Prop :=
  (∀ (c : ModularCell) (r : Int), 0 < c.modulus →
    (c.assign r).read < c.modulus ∧ (c.modulus : Int) ∣ r - ((c.assign r).read : Int) ∧
    (c.assign r).modulus = c.modulus ∧ (c.addInPlace r).modulus = c.modulus ∧
    (c.subtractInPlace r).modulus = c.modulus) ∧
  (∀ s : State, s.Inv →
    s.accCell.value < s.accCell.modulus ∧ s.accCell.modulus = s.cfg.globalModulus ∧
    s.pcCell.value < s.pcCell.modulus ∧ s.pcCell.modulus = s.cfg.memorySize ∧
    ∀ a, (s.memCell a).value < (s.memCell a).modulus ∧ (s.memCell a).modulus = s.cfg.globalModulus)

/-- 10_state.md R21: the cell operations, the in-place variants against the pure ones, comparison with integers, and construction. -/
def Obligations.CellOperationsAreModular : Prop :=
  (∀ (c : ModularCell) (k : Int), 0 < c.modulus →
    ((c.assign k).read : Int) = k % c.modulus ∧
    (c.add k : Int) = ((c.value : Int) + k) % c.modulus ∧
    (c.subtract k : Int) = ((c.value : Int) - k) % c.modulus ∧
    (c.addInPlace k).read = c.add k ∧ (c.subtractInPlace k).read = c.subtract k ∧
    (c.equalsInt k = true ↔ (c.read : Int) = k) ∧ (c.lessThanInt k = true ↔ (c.read : Int) < k)) ∧
  (∀ raw modulus : Int, modulus ≤ 0 → ModularCell.construct raw modulus = .error .configuration) ∧
  (∀ raw modulus : Int, 0 < modulus → ∃ c, ModularCell.construct raw modulus = .ok c ∧
    (c.modulus : Int) = modulus ∧ (c.value : Int) = raw % modulus)

/-- 20_memory.md R51: the bank primitives. A read gives the cell, a write changes that one cell to `v mod P`, and outside `[0, N)` both
raise OutOfBounds, with no state in which a cell has changed. -/
def Obligations.BankPrimitivesReadAndWriteOneCell : Prop :=
  ∀ (s : State) (a : Nat) (v : Int), s.Inv →
    (a < s.cfg.memorySize →
      memRead s a = .ok (s.mem.peek a) ∧ s.mem.peek a < s.cfg.globalModulus ∧
      ∃ t, memWrite s a v = .ok t ∧ t = { s with mem := t.mem } ∧ t.mem.wf ∧
        (t.mem.peek a : Int) = v % s.cfg.globalModulus ∧ ∀ b, b ≠ a → t.mem.peek b = s.mem.peek b) ∧
    (s.cfg.memorySize ≤ a →
      memRead s a = .error (.outOfBounds a) ∧ memWrite s a v = .error (.outOfBounds a))

/-- The canonical form is one: two memories in it that read the same at every address are the same list. The form is the model's choice
(log 2). -/
def Obligations.EqualReadsMakeEqualMemories : Prop :=
  ∀ m n : Memory, m.wf → n.wf → (∀ a, m.peek a = n.peek a) → m = n

/-! ## Construction and reset -/

/-- 00_scope.md R7: a configuration error exactly for a modulus or a memory size that is not positive or a program longer than memory;
no engine exists then. -/
def Obligations.BadConfigurationMakesNoEngine : Prop :=
  ∀ (k : Construction) (input : List Int),
    (create k input = .fault .configuration ↔
      k.globalModulus ≤ 0 ∨ k.memorySize ≤ 0 ∨ k.memorySize < k.program.length) ∧
    ((∃ t, create k input = .next t) ↔
      0 < k.globalModulus ∧ 0 < k.memorySize ∧ (k.program.length : Int) ≤ k.memorySize)

/-- What construction leaves, field by field. The 0 of a cell that the program does not cover and the input sequence given at launch are
the spec's own decisions D7 and D3 (log 2, log 6). -/
def Obligations.ConstructionSetsEveryField : Prop :=
  ∀ (k : Construction) (input : List Int),
    0 < k.globalModulus → 0 < k.memorySize → (k.program.length : Int) ≤ k.memorySize →
    ∃ t, create k input = .next t ∧
      (∀ (i : Nat) (h : i < k.program.length), (t.mem.peek i : Int) = k.program[i] % k.globalModulus) ∧
      (∀ i, k.program.length ≤ i → t.mem.peek i = 0) ∧
      (t.acc : Int) = k.accumulatorStart % k.globalModulus ∧
      (t.pc : Int) = k.programCounterStart % k.memorySize ∧
      t.neg = k.negativeFlagStart ∧ t.halt = false ∧ t.run = .running ∧ t.input = input ∧ t.output = [] ∧
      (t.cfg.globalModulus : Int) = k.globalModulus ∧ (t.cfg.memorySize : Int) = k.memorySize ∧
      t.cfg.policy = k.policy

/-- `State.reset` is construction at the default parameters. Its empty program and empty input are the model's choice (log 3). -/
def Obligations.ResetIsConstructionAtTheDefaults : Prop :=
  create { program := [] } [] = .next State.reset

/-! ## The invariant -/

/-- Construction gives a state with the invariant. -/
def Obligations.ConstructionSatisfiesInvariant : Prop :=
  ∀ (k : Construction) (input : List Int) (t : State), create k input = .next t → t.Inv

/-- The reset state has the invariant. -/
def Obligations.ResetSatisfiesInvariant : Prop := State.reset.Inv

/-- Every cycle keeps the invariant: the accumulator, the cells and the emitted values stay in `[0, P)`, the program counter in `[0, N)`,
the memory in its canonical form, and HALTED goes with the halt flag. -/
def Obligations.StepKeepsInvariant : Prop :=
  ∀ s t : State, s.Inv → step s = .next t → t.Inv

/-- A run of any length from a state with the invariant ends in a state with the invariant, never in a fault or a refusal. -/
def Obligations.EveryRunAnswersAStateWithInvariant : Prop :=
  ∀ (k : Nat) (s : State), s.Inv → ∃ t, runFor k s = .next t ∧ t.Inv

/-! ## Decode, encode, dispatch -/

/-- 30_encoding.md R83: the codes of the instructions, decode of encode for every well-formed instruction, and the hundred codes of HLT. -/
def Obligations.DecodeOfEncodeIsTheInstruction : Prop :=
  (∀ i : Instr, i.wellFormed = true → decode (encode i) = i) ∧
  (∀ a ≤ 99, encode (.add a) = 100 + a ∧ encode (.sub a) = 200 + a ∧ encode (.sta a) = 300 + a ∧
    encode (.lda a) = 500 + a ∧ encode (.bra a) = 600 + a ∧ encode (.brz a) = 700 + a ∧
    encode (.brp a) = 800 + a) ∧
  encode .inp = 901 ∧ encode .out = 902 ∧ encode .hlt = 0 ∧ (∀ c, decode c = .hlt ↔ c < 100)

/-- Every code decodes to a well-formed instruction, and encoding that gives the code back but for the ignored digits of HLT. -/
def Obligations.EncodeOfDecodeIsTheCode : Prop :=
  ∀ c : Nat, (decode c).wellFormed = true ∧ encode (decode c) = if c < 100 then 0 else c

/-- The complete decode, range by range, and how many of the codes below 1000 each mnemonic has. The counts are the spec's own inference
("At `P = 1000` the counts are: …", 30_encoding.md section 2, "[derived: from the table]"). That the codes from 1000 on are UNMATCHED is
the spec's own decision D9 (log 9). -/
def Obligations.DecodeFollowsTheCodeRanges : Prop :=
  (∀ c x : Nat,
    (decode c = .add x ↔ 100 ≤ c ∧ c ≤ 199 ∧ x = c % 100) ∧
    (decode c = .sub x ↔ 200 ≤ c ∧ c ≤ 299 ∧ x = c % 100) ∧
    (decode c = .sta x ↔ 300 ≤ c ∧ c ≤ 399 ∧ x = c % 100) ∧
    (decode c = .lda x ↔ 500 ≤ c ∧ c ≤ 599 ∧ x = c % 100) ∧
    (decode c = .bra x ↔ 600 ≤ c ∧ c ≤ 699 ∧ x = c % 100) ∧
    (decode c = .brz x ↔ 700 ≤ c ∧ c ≤ 799 ∧ x = c % 100) ∧
    (decode c = .brp x ↔ 800 ≤ c ∧ c ≤ 899 ∧ x = c % 100) ∧
    (decode c = .inp ↔ c = 901) ∧ (decode c = .out ↔ c = 902) ∧ (decode c = .hlt ↔ c < 100) ∧
    ((decode c).mnemonic = "UNMATCHED" ↔ (400 ≤ c ∧ c ≤ 499) ∨ c = 900 ∨ (903 ≤ c ∧ c ≤ 999) ∨ 1000 ≤ c)) ∧
  (∀ p ∈ [("HLT", 100), ("ADD", 100), ("SUB", 100), ("STA", 100), ("LDA", 100), ("BRA", 100), ("BRZ", 100),
      ("BRP", 100), ("INP", 1), ("OUT", 1), ("UNMATCHED", 198)],
    ((List.range 1000).countP fun c => decide ((decode c).mnemonic = p.1)) = p.2)

/-- Words written out from the spec's encoding decode to the instruction they stand for. -/
def Obligations.SampleCodesDecode : Prop :=
  decode 42 = .hlt ∧ decode 199 = .add 99 ∧ decode 210 = .sub 10 ∧ decode 315 = .sta 15 ∧
  decode 520 = .lda 20 ∧ decode 675 = .bra 75 ∧ decode 712 = .brz 12 ∧ decode 809 = .brp 9 ∧
  decode 901 = .inp ∧ decode 902 = .out ∧ decode 450 = .unmatched4xx 450 ∧ decode 900 = .unmatched900 ∧
  decode 903 = .unmatched9xx 903 ∧ decode 1105 = .unmatchedAbove999 1105

/-- 30_encoding.md R75: at most one rule of the table matches any code, and the order of the rules does not change what is dispatched. -/
def Obligations.RulesAreDisjointInAnyOrder : Prop :=
  (∀ c : Nat, instructionTable.Pairwise fun r q => ¬ (r.predicate c = true ∧ q.predicate c = true)) ∧
  (∀ (table : List InstructionRule) (c : Nat) (s : State), table.Perm instructionTable →
    dispatch table c s = dispatch instructionTable c s)

/-- 40_cycle.md R94: the rules' names are the mnemonics of the codes they match, an attempt executes or is skipped, the first rule that
executes decides, the unmatched policy applies if none does, and dispatching a code is executing its decoded instruction. -/
def Obligations.DispatcherExecutesTheDecodedInstruction : Prop :=
  (instructionTable.map InstructionRule.name =
    ["ADD", "SUB", "STA", "LDA", "BRA", "BRZ", "BRP", "INP", "OUT", "HLT"]) ∧
  (∀ r ∈ instructionTable, ∀ c : Nat, r.predicate c = true ↔ (decode c).mnemonic = r.name) ∧
  (∀ (r : InstructionRule) (c : Nat) (s : State),
    (r.predicate c = true → r.attempt c s = some (r.effect c s)) ∧ (r.predicate c = false → r.attempt c s = none)) ∧
  (∀ (before rest : List InstructionRule) (r : InstructionRule) (c : Nat) (s : State),
    (∀ q ∈ before, q.predicate c = false) → r.predicate c = true →
      dispatch (before ++ r :: rest) c s = r.effect c s) ∧
  (∀ (table : List InstructionRule) (c : Nat) (s : State),
    (∀ q ∈ table, q.predicate c = false) → dispatch table c s = unmatchedCycle c s) ∧
  (∀ (c : Nat) (s : State), dispatch instructionTable c s = exec (decode c) s)

/-! ## The cycle -/

/-- 40_cycle.md section 1: a cycle of a running engine fetches at the program counter, advances it modulo `N`, and then executes the
decoded instruction in that state. -/
def Obligations.StepRunsTheDecodedInstruction : Prop :=
  ∀ (s : State) (i : Instr), s.run = .running → s.pc < s.cfg.memorySize → decode (s.mem.peek s.pc) = i →
    step s = exec i { s with pc := (s.pc + 1) % s.cfg.memorySize }

/-- In a running engine with the invariant the fetch never raises, and the code is in `[0, P)`. -/
def Obligations.FetchNeverRaises : Prop :=
  ∀ s : State, s.Inv → fetch s = .ok (s.mem.peek s.pc) ∧ s.mem.peek s.pc < s.cfg.globalModulus

/-- Every cycle of a running engine answers a next state: an error is one too. -/
def Obligations.RunningEngineAlwaysCompletesItsCycle : Prop :=
  ∀ s : State, s.run = .running → ∃ t, step s = .next t

/-- Where the program counter stands after a cycle (40_cycle.md sections 1 and 3). It is the advanced one, for every instruction, for an
unmatched code, for HLT and where the execute phase raised an error, but for a taken branch, whose absolute target overwrites it. That
a target of `N` or more wraps and does not raise is the spec's own decision D8 (log 8). -/
def Obligations.CycleAdvancesOrBranches : Prop :=
  ∀ s t : State, s.pc < s.cfg.memorySize → step s = .next t →
    t.pc = match decode (s.mem.peek s.pc) with
      | .bra x => x % s.cfg.memorySize
      | .brz x => if s.acc = 0 then x % s.cfg.memorySize else (s.pc + 1) % s.cfg.memorySize
      | .brp x => if s.neg = false then x % s.cfg.memorySize else (s.pc + 1) % s.cfg.memorySize
      | _ => (s.pc + 1) % s.cfg.memorySize

/-- An engine that has ended: a step request is refused by name (the model's choice, log 5), `run()` performs no cycle and changes
nothing. -/
def Obligations.EndedEngineTakesNoStep : Prop :=
  ∀ s : State, s.run ≠ .running →
    step s = .refused (.notRunning s.run) ∧ ∀ k, runFor k s = .next s ∧ cyclesFor k s = 0

/-- The code that `withFetchWord` places is what the next step executes (log 13). -/
def Obligations.PlacedCodeIsExecutedNext : Prop :=
  ∀ (s : State) (nbits w : Nat), s.run = .running → s.pc < s.cfg.memorySize → s.mem.wf →
    step (s.withFetchWord nbits w) =
      exec (decode w) { s.withFetchWord nbits w with pc := (s.pc + 1) % s.cfg.memorySize }

/-! ## Arithmetic and transfer -/

/-- 41_arithmetic.md R110: the wrapped sum, or the stop of 60_exceptions.md R162 with nothing changed. -/
def Obligations.AddStoresTheWrappedSum : Prop :=
  (∀ c, 100 ≤ c → c ≤ 199 → decode c = .add (c % 100)) ∧
  (∀ (x : Nat) (s : State), x < s.cfg.memorySize →
    exec (.add x) s = .next { s with acc := (s.acc + s.mem.peek x) % s.cfg.globalModulus }) ∧
  (∀ (x : Nat) (s : State), s.cfg.memorySize ≤ x →
    exec (.add x) s = .next { s with run := .stopped (.outOfBounds x) })

/-- 41_arithmetic.md R112: the flag is the borrow of the values before the subtraction, the difference wraps once. -/
def Obligations.SubSetsNegAndStoresTheWrappedDifference : Prop :=
  (∀ c, 200 ≤ c → c ≤ 299 → decode c = .sub (c % 100)) ∧
  (∀ (x : Nat) (s : State), s.Inv → x < s.cfg.memorySize →
    exec (.sub x) s = .next { s with
      neg := decide (s.acc < s.mem.peek x)
      acc := if s.acc < s.mem.peek x then s.acc + s.cfg.globalModulus - s.mem.peek x
        else s.acc - s.mem.peek x }) ∧
  (∀ (x : Nat) (s : State), s.cfg.memorySize ≤ x →
    exec (.sub x) s = .next { s with run := .stopped (.outOfBounds x) })

/-- 42_transfer.md R120: the one cell `x` becomes the accumulator, every other cell and every register stays. -/
def Obligations.StaStoresTheAccumulator : Prop :=
  (∀ c, 300 ≤ c → c ≤ 399 → decode c = .sta (c % 100)) ∧
  (∀ (x : Nat) (s : State), s.Inv → x < s.cfg.memorySize →
    ∃ t, exec (.sta x) s = .next t ∧ t = { s with mem := t.mem } ∧ t.mem.peek x = s.acc ∧
      ∀ a, a ≠ x → t.mem.peek a = s.mem.peek a) ∧
  (∀ (x : Nat) (s : State), s.cfg.memorySize ≤ x →
    exec (.sta x) s = .next { s with run := .stopped (.outOfBounds x) })

/-- 42_transfer.md R122: the cell's value, or the stop of 60_exceptions.md R162 with nothing changed. -/
def Obligations.LdaLoadsTheCell : Prop :=
  (∀ c, 500 ≤ c → c ≤ 599 → decode c = .lda (c % 100)) ∧
  (∀ (x : Nat) (s : State), s.Inv → x < s.cfg.memorySize →
    exec (.lda x) s = .next { s with acc := s.mem.peek x }) ∧
  (∀ (x : Nat) (s : State), s.cfg.memorySize ≤ x →
    exec (.lda x) s = .next { s with run := .stopped (.outOfBounds x) })

/-- 42_transfer.md R124: an STA to `a` whose next cycle runs an LDA from `a` restores the accumulator; with `a` outside the bank the run
stops at the STA and no further cycle runs. -/
def Obligations.StaThenLdaRestoresTheAccumulator : Prop :=
  ∀ (s t : State) (a : Nat), s.Inv → decode (s.mem.peek s.pc) = .sta a → step s = .next t →
    (a < s.cfg.memorySize → decode (t.mem.peek t.pc) = .lda a →
      ∃ u, step t = .next u ∧ u.acc = s.acc ∧ u.run = .running) ∧
    (s.cfg.memorySize ≤ a → t.run = .stopped (.outOfBounds a) ∧ ∀ k, runFor k t = .next t ∧ cyclesFor k t = 0)

/-- 20_memory.md section 4: a store to the cell about to be fetched is executed in the very next cycle, with no hazard. -/
def Obligations.StoredCodeIsFetchedNext : Prop :=
  ∀ s : State, s.Inv → s.run = .running →
    decode (s.mem.peek s.pc) = .sta ((s.pc + 1) % s.cfg.memorySize) →
    ∃ t, step s = .next t ∧ t.pc = (s.pc + 1) % s.cfg.memorySize ∧
      step t = exec (decode s.acc) { t with pc := (t.pc + 1) % s.cfg.memorySize }

/-! ## Branches -/

/-- 43_branch.md, BRA. That a target of `N` or more wraps is the spec's own decision D8 (log 8). -/
def Obligations.BraBranchesAlways : Prop :=
  (∀ c, 600 ≤ c → c ≤ 699 → decode c = .bra (c % 100)) ∧
  (∀ (x : Nat) (s : State), exec (.bra x) s = .next { s with pc := x % s.cfg.memorySize })

/-- 43_branch.md, BRZ. The wrap of the target is the spec's own decision D8 (log 8). -/
def Obligations.BrzBranchesOnZeroAccumulator : Prop :=
  (∀ c, 700 ≤ c → c ≤ 799 → decode c = .brz (c % 100)) ∧
  (∀ (x : Nat) (s : State),
    exec (.brz x) s = .next { s with pc := if s.acc = 0 then x % s.cfg.memorySize else s.pc })

/-- 43_branch.md, BRP. The wrap of the target is the spec's own decision D8 (log 8). -/
def Obligations.BrpBranchesOnClearNeg : Prop :=
  (∀ c, 800 ≤ c → c ≤ 899 → decode c = .brp (c % 100)) ∧
  (∀ (x : Nat) (s : State),
    exec (.brp x) s = .next { s with pc := if s.neg = false then x % s.cfg.memorySize else s.pc })

/-- 40_cycle.md section 4: a BRA to its own address runs forever. -/
def Obligations.BranchToItselfRunsForever : Prop :=
  ∀ s : State, s.Inv → s.run = .running → decode (s.mem.peek s.pc) = .bra s.pc →
    ∀ k, runFor k s = .next s ∧ cyclesFor k s = k

/-! ## Input and output -/

/-- 44_io.md, INP. That the channel is a finite sequence fixed at launch is the spec's own decision D3 (log 6). -/
def Obligations.InpTakesOneItem : Prop :=
  (∀ c, c = 901 → decode c = .inp) ∧
  (∀ (s : State) (r : Int) (rest : List Int), 0 < s.cfg.globalModulus → s.input = r :: rest →
    ∃ v : Nat, (v : Int) = r % s.cfg.globalModulus ∧ exec .inp s = .next { s with acc := v, input := rest }) ∧
  (∀ s : State, s.input = [] → exec .inp s = .next { s with run := .stopped .inputExhausted })

/-- 44_io.md, OUT. That the sink never fails is the spec's own decision D4 (log 7). -/
def Obligations.OutEmitsTheAccumulator : Prop :=
  (∀ c, c = 902 → decode c = .out) ∧
  (∀ s : State, exec .out s = .next { s with output := s.output ++ [s.acc] })

/-- 10_state.md section 6, 44_io.md: the interface says what a cycle does to the channels. The output grows by exactly the event of
`out_data`; without a request the input stays; an answered request consumes that one item into the accumulator; a request that finds no
item stops the run (the interface is the spec's own decision D2, log 21). -/
def Obligations.ChannelsFollowTheInterface : Prop :=
  ∀ s t : State, s.Inv → step s = .next t →
    t.output = s.output ++ s.outData.toList ∧
    (s.inReq = false → t.input = s.input ∧ s.inResp = none) ∧
    (∀ r, s.inResp = some (.item r) → s.input = r :: t.input ∧ (t.acc : Int) = r % s.cfg.globalModulus) ∧
    (s.inResp = some .exhausted ↔ t.run = .stopped .inputExhausted)

/-! ## Halt and unmatched codes -/

/-- 45_halt_unmatched.md R150: every code below 100, an unwritten cell's among them, halts; the advance stays; no further cycle runs. -/
def Obligations.HltHaltsForGood : Prop :=
  (∀ c, c < 100 → decode c = .hlt) ∧ (∀ a, decode (Memory.peek [] a) = .hlt) ∧
  (∀ s : State, exec .hlt s = .next { s with halt := true, run := .halted }) ∧
  (∀ s : State, s.run = .running → s.pc < s.cfg.memorySize → s.mem.peek s.pc < 100 →
    ∀ k, runFor (k + 1) s =
        .next { s with pc := (s.pc + 1) % s.cfg.memorySize, halt := true, run := .halted } ∧
      cyclesFor (k + 1) s = 1)

/-- 45_halt_unmatched.md R152: a code that no range holds is a no-op under PERMISSIVE and raises Decode(code) under STRICT. -/
def Obligations.UnmatchedCodeIsNoOpOrDecodeError : Prop :=
  (∀ c, 400 ≤ c → c ≤ 499 → decode c = .unmatched4xx c) ∧ decode 900 = .unmatched900 ∧
  (∀ c, 903 ≤ c → c ≤ 999 → decode c = .unmatched9xx c) ∧ (∀ c, 1000 ≤ c → decode c = .unmatchedAbove999 c) ∧
  (∀ (code : Nat) (s : State), s.cfg.policy = .permissive →
    exec (.unmatched4xx code) s = .next s ∧ exec .unmatched900 s = .next s ∧
    exec (.unmatched9xx code) s = .next s ∧ exec (.unmatchedAbove999 code) s = .next s) ∧
  (∀ (code : Nat) (s : State), s.cfg.policy = .strict →
    exec (.unmatched4xx code) s = .next { s with run := .stopped (.decode code) } ∧
    exec .unmatched900 s = .next { s with run := .stopped (.decode 900) } ∧
    exec (.unmatched9xx code) s = .next { s with run := .stopped (.decode code) } ∧
    exec (.unmatchedAbove999 code) s = .next { s with run := .stopped (.decode code) })

/-- 40_cycle.md section 4: an all-unmatched memory under PERMISSIVE runs forever, the program counter wrapping. -/
def Obligations.AllUnmatchedMemoryRunsForever : Prop :=
  ∀ s : State, s.Inv → s.run = .running → s.cfg.policy = .permissive →
    (∀ a, a < s.cfg.memorySize → unmatchedCode (s.mem.peek a)) →
    ∀ k, runFor k s = .next { s with pc := (s.pc + k) % s.cfg.memorySize } ∧ cyclesFor k s = k

/-- 30_encoding.md section 1: with `P ≤ 100` every instruction is HLT. -/
def Obligations.SmallModulusOnlyHalts : Prop :=
  ∀ s : State, s.Inv → s.run = .running → s.cfg.globalModulus ≤ 100 →
    step s = .next { s with pc := (s.pc + 1) % s.cfg.memorySize, halt := true, run := .halted }

/-! ## Errors -/

/-- 60_exceptions.md section 2: a cycle that raises an error leaves everything but the advance and the run state as it was, the halt flag
false, and no further cycle runs. That the stop is a run state of its own is the spec's own decision D5 (log 4). -/
def Obligations.ErrorLeavesOnlyTheAdvance : Prop :=
  ∀ (s t : State) (e : ErrorKind), s.Inv → step s = .next t → t.run = .stopped e →
    t = { s with pc := (s.pc + 1) % s.cfg.memorySize, run := .stopped e } ∧ t.halt = false ∧
      ∀ k, runFor k t = .next t ∧ cyclesFor k t = 0

/-- 60_exceptions.md section 1: which cycle raises which error, and what it records; a cycle raises at most one. The recorded info is the
spec's own decision D6 (log 21). -/
def Obligations.EachErrorHasItsCause : Prop :=
  ∀ (s : State) (e : ErrorKind), s.Inv → s.run = .running →
    ((∃ t, step s = .next t ∧ t.run = .stopped e) ↔
      match e with
      | .outOfBounds a => s.cfg.memorySize ≤ a ∧ s.mem.peek s.pc % 100 = a ∧
          (s.mem.peek s.pc / 100 = 1 ∨ s.mem.peek s.pc / 100 = 2 ∨ s.mem.peek s.pc / 100 = 3 ∨
            s.mem.peek s.pc / 100 = 5)
      | .inputExhausted => s.mem.peek s.pc = 901 ∧ s.input = []
      | .decode c => s.mem.peek s.pc = c ∧ unmatchedCode c ∧ s.cfg.policy = .strict)

/-- The status output's codes and recorded info. They are the spec's own decision D6 (log 21). -/
def Obligations.StatusCodesAndInfo : Prop :=
  RunState.code .running = 0 ∧ RunState.code .halted = 0 ∧
  (∀ a, RunState.code (.stopped (.outOfBounds a)) = 1 ∧ RunState.info (.stopped (.outOfBounds a)) = some a) ∧
  RunState.code (.stopped .inputExhausted) = 2 ∧ RunState.info (.stopped .inputExhausted) = none ∧
  (∀ c, RunState.code (.stopped (.decode c)) = 3 ∧ RunState.info (.stopped (.decode c)) = some c) ∧
  Fault.code .configuration = 4 ∧ ∀ r : RunState, r.code ≠ 4

/-- With at least a hundred cells and the permissive policy, no run takes an error as long as it has no more cycles than input items. -/
def Obligations.EnoughInputMakesRunsSafe : Prop :=
  ∀ (s : State) (fuel : Nat), s.Inv → s.noError → 100 ≤ s.cfg.memorySize → s.cfg.policy = .permissive →
    fuel ≤ s.input.length → safeFor fuel s

/-! ## Whole-machine rules -/

/-- 10_state.md R25: only SUB writes the negative flag, and every SUB that does not raise does; only BRP reads it; it starts as `NEG0`. -/
def Obligations.NegIsWrittenBySubAndReadByBrp : Prop :=
  (∀ (i : Instr) (s t : State), exec i s = .next t → (∀ x, i ≠ .sub x) → t.neg = s.neg) ∧
  (∀ (x : Nat) (s t : State), x < s.cfg.memorySize → exec (.sub x) s = .next t →
    t.neg = decide ((s.acc : Int) - (s.mem.peek x : Int) < 0)) ∧
  (∀ (x : Nat) (s : State) (b : Bool), x < s.cfg.memorySize → exec (.sub x) { s with neg := b } = exec (.sub x) s) ∧
  (∀ (x : Nat) (s t : State), s.cfg.memorySize ≤ x → exec (.sub x) s = .next t → t.neg = s.neg) ∧
  (∀ (i : Instr) (s t : State) (b : Bool), (∀ x, i ≠ .sub x) → (∀ x, i ≠ .brp x) → exec i s = .next t →
    exec i { s with neg := b } = .next { t with neg := b }) ∧
  (∀ (k : Construction) (input : List Int) (t : State), create k input = .next t → t.neg = k.negativeFlagStart)

/-- 10_state.md R26: the halt flag is monotonic, only HLT writes it, no cycle runs while it is true, and no instruction reads it. -/
def Obligations.HaltFlagIsMonotonic : Prop :=
  (∀ (i : Instr) (s t : State), exec i s = .next t → t.halt = (s.halt || decide (i = .hlt))) ∧
  (∀ s t : State, step s = .next t → s.halt = true → t.halt = true) ∧
  (∀ s : State, s.Inv → s.halt = true → (∀ t, step s ≠ .next t) ∧ ∀ k, cyclesFor k s = 0) ∧
  (∀ (i : Instr) (s t : State) (b : Bool), exec i s = .next t →
    exec i { s with halt := b } = .next { t with halt := b || decide (i = .hlt) })

/-- 10_state.md section 2: in the execute phase, the writers of each piece of state: the configuration (which has none), the four
registers, the memory, the run state by its entries into HALTED and STOPPED, and the two channels. The program counter's advance, which
every cycle does, comes before this phase. -/
def Obligations.EachRegisterHasItsWriters : Prop :=
  ∀ (i : Instr) (s t : State), exec i s = .next t →
    t.cfg = s.cfg ∧
    (t.acc ≠ s.acc → i.mnemonic = "ADD" ∨ i.mnemonic = "SUB" ∨ i.mnemonic = "LDA" ∨ i.mnemonic = "INP") ∧
    (t.pc ≠ s.pc → i.mnemonic = "BRA" ∨ i.mnemonic = "BRZ" ∨ i.mnemonic = "BRP") ∧
    (t.neg ≠ s.neg → i.mnemonic = "SUB") ∧
    (t.halt ≠ s.halt → i.mnemonic = "HLT") ∧
    (t.mem ≠ s.mem → i.mnemonic = "STA") ∧
    (t.input ≠ s.input → i.mnemonic = "INP") ∧
    (t.output ≠ s.output → i.mnemonic = "OUT") ∧
    (t.run ≠ s.run →
      (t.run = .halted ∧ i.mnemonic = "HLT") ∨
      (∃ a, t.run = .stopped (.outOfBounds a) ∧
        (i.mnemonic = "ADD" ∨ i.mnemonic = "SUB" ∨ i.mnemonic = "STA" ∨ i.mnemonic = "LDA")) ∨
      (t.run = .stopped .inputExhausted ∧ i.mnemonic = "INP") ∨
      (∃ c, t.run = .stopped (.decode c) ∧ i.mnemonic = "UNMATCHED"))

/-- The decode policy is visible on an unmatched code alone. -/
def Obligations.PolicyMattersOnlyOnUnmatchedCodes : Prop :=
  ∀ (i : Instr) (s t : State) (p : DecodePolicy), i.mnemonic ≠ "UNMATCHED" → exec i s = .next t →
    exec i { s with cfg := { s.cfg with policy := p } } = .next { t with cfg := { t.cfg with policy := p } }

/-- 20_memory.md section 3: cells 100 and above are reached only by fetch. No cycle writes one, and no instruction's effect depends on
one: with other contents there, the same registers and the same cells 0 to 99 result. -/
def Obligations.CellsFrom100OnAreFetchOnly : Prop :=
  (∀ (s t : State) (a : Nat), step s = .next t → 100 ≤ a → t.mem.peek a = s.mem.peek a) ∧
  (∀ (i : Instr) (s t : State) (m : Memory), i.wellFormed = true → s.mem.wf → m.wf →
    (∀ a ≤ 99, m.peek a = s.mem.peek a) → exec i s = .next t →
    ∃ u, exec i { s with mem := m } = .next u ∧ u = { t with mem := u.mem } ∧
      ∀ a ≤ 99, u.mem.peek a = t.mem.peek a)

/-- A run under a ceiling may be cut anywhere: the ceiling is the host's and leaves no trace in the core. -/
def Obligations.RunSplitsAtAnyCycle : Prop :=
  ∀ (j k : Nat) (s t : State), runFor j s = .next t →
    runFor (j + k) s = runFor k t ∧ cyclesFor (j + k) s = cyclesFor j s + cyclesFor k t

/-- 20_memory.md section 4: engines share nothing. A cycle of one leaves every other as it was, and cycles of two commute. The list of
engines is the model's form of the product (log 17). -/
def Obligations.EnginesAreIndependent : Prop :=
  ∀ (j k : Nat) (engines : List State), j ≠ k →
    (∀ next, stepEngine j engines = some next → next[k]? = engines[k]?) ∧
    ((stepEngine j engines).bind (stepEngine k)) = ((stepEngine k engines).bind (stepEngine j))

/-- The step lemma behind `EnoughInputMakesRunsSafe`: an engine that is safe for `n + 1` more cycles is safe for `n` more after one, with
the same configuration. -/
def Obligations.StepKeepsInputSafety : Prop :=
  ∀ (n : Nat) (s t : State), s.SafeWithInput (n + 1) → step s = .next t → t.SafeWithInput n ∧ t.cfg = s.cfg
end

