-- ==== Sys2Proof/Laws/Decode.lean ====
section
/-! SUPPORT. All that decoding a code can give, said once: the range the code lies in and the instruction. -/

namespace Sys2Proof

/-- The fourteen ranges cover every code, and each gives its row's instruction. -/
theorem decode_cases (c : Nat) :
    (c < 100 ∧ decode c = .hlt) ∨
    (100 ≤ c ∧ c ≤ 199 ∧ decode c = .add (c % 100)) ∨ (200 ≤ c ∧ c ≤ 299 ∧ decode c = .sub (c % 100)) ∨
    (300 ≤ c ∧ c ≤ 399 ∧ decode c = .sta (c % 100)) ∨ (400 ≤ c ∧ c ≤ 499 ∧ decode c = .unmatched4xx c) ∨
    (500 ≤ c ∧ c ≤ 599 ∧ decode c = .lda (c % 100)) ∨ (600 ≤ c ∧ c ≤ 699 ∧ decode c = .bra (c % 100)) ∨
    (700 ≤ c ∧ c ≤ 799 ∧ decode c = .brz (c % 100)) ∨ (800 ≤ c ∧ c ≤ 899 ∧ decode c = .brp (c % 100)) ∨
    (c = 900 ∧ decode c = .unmatched900) ∨ (c = 901 ∧ decode c = .inp) ∨ (c = 902 ∧ decode c = .out) ∨
    (903 ≤ c ∧ c ≤ 999 ∧ decode c = .unmatched9xx c) ∨ (1000 ≤ c ∧ decode c = .unmatchedAbove999 c) := by
  have range : c < 100 ∨ (100 ≤ c ∧ c ≤ 199) ∨ (200 ≤ c ∧ c ≤ 299) ∨ (300 ≤ c ∧ c ≤ 399) ∨
      (400 ≤ c ∧ c ≤ 499) ∨ (500 ≤ c ∧ c ≤ 599) ∨ (600 ≤ c ∧ c ≤ 699) ∨ (700 ≤ c ∧ c ≤ 799) ∨
      (800 ≤ c ∧ c ≤ 899) ∨ c = 900 ∨ c = 901 ∨ c = 902 ∨ (903 ≤ c ∧ c ≤ 999) ∨ 1000 ≤ c := by omega
  unfold decode addressField
  rcases range with h | h | h | h | h | h | h | h | h | h | h | h | h | h <;>
    · repeat first | rw [if_pos (by omega)] | rw [if_neg (by omega)]
      simp [h]

end Sys2Proof
end

