-- ==== Sys2Proof/Laws/Dispatcher.lean ====
section
/-! SUPPORT. The small lemmas of the instruction rules: which codes a rule matches, and what dispatching one more rule does. -/

namespace Sys2Proof.Machine

@[simp] theorem InstructionRule.hundred_matches (name : String) (digit : Nat)
    (effect : Nat → State → Host.Outcome State Fault Refusal) (code : Nat) :
    (InstructionRule.hundred name digit effect).predicate code = true ↔ code / 100 = digit := by
  simp [InstructionRule.hundred]
  rfl

@[simp] theorem InstructionRule.hundred_name (name : String) (digit : Nat)
    (effect : Nat → State → Host.Outcome State Fault Refusal) :
    (InstructionRule.hundred name digit effect).name = name := rfl

@[simp] theorem InstructionRule.hundred_effect (name : String) (digit : Nat)
    (effect : Nat → State → Host.Outcome State Fault Refusal) (code : Nat) (s : State) :
    (InstructionRule.hundred name digit effect).effect code s = effect (code % 100) s := rfl

@[simp] theorem InstructionRule.literal_matches (name : String) (value : Nat)
    (effect : State → Host.Outcome State Fault Refusal) (code : Nat) :
    (InstructionRule.literal name value effect).predicate code = true ↔ code = value := by
  simp [InstructionRule.literal]

@[simp] theorem InstructionRule.literal_name (name : String) (value : Nat)
    (effect : State → Host.Outcome State Fault Refusal) :
    (InstructionRule.literal name value effect).name = name := rfl

@[simp] theorem InstructionRule.literal_effect (name : String) (value : Nat)
    (effect : State → Host.Outcome State Fault Refusal) (code : Nat) (s : State) :
    (InstructionRule.literal name value effect).effect code s = effect s := rfl

/-- Dispatching a table with one more rule in front. -/
theorem dispatch_cons (r : InstructionRule) (rest : List InstructionRule) (code : Nat) (s : State) :
    dispatch (r :: rest) code s = if r.predicate code = true then r.effect code s else dispatch rest code s := by
  simp only [dispatch, InstructionRule.attempt]
  split <;> simp_all

end Sys2Proof.Machine
end

