-- ==== Sys2Proof/Laws/Memory.lean ====
section
/-! SUPPORT. The laws of the memory bank as data: a read after a write, every other cell, and the canonical form, which every memory
operation keeps. -/

namespace Sys2Proof.Machine

/-- A cell below every listed address reads as an unlisted cell does. -/
theorem Memory.peek_of_lt {m : Memory} {a : Nat} (h : ∀ c ∈ m, a < c.1) : Memory.peek m a = Memory.unlisted := by
  induction m with
  | nil => rfl
  | cons c rest ih =>
    have hc : a < c.1 := h c (by simp)
    simp only [Memory.peek]
    rw [if_neg (by omega)]
    exact ih fun d hd => h d (by simp [hd])

/-- A listed entry of a canonical memory is what its address reads. -/
theorem Memory.peek_of_mem {m : Memory} (h : m.wf) {c : Cell} (hc : c ∈ m) : Memory.peek m c.1 = c.2 := by
  induction m with
  | nil => simp at hc
  | cons d rest ih =>
    obtain ⟨hs, hn⟩ := h
    rw [List.pairwise_cons] at hs
    rcases List.mem_cons.mp hc with rfl | hr
    · simp [Memory.peek]
    · have := hs.1 c hr
      simp only [Memory.peek]
      rw [if_neg (by omega)]
      exact ih ⟨hs.2, fun e he => hn e (by simp [he])⟩ hr

/-- What a memory reads is an entry of it or what an unlisted cell reads. -/
theorem Memory.peek_cases (m : Memory) (a : Nat) :
    Memory.peek m a = Memory.unlisted ∨ (a, Memory.peek m a) ∈ m := by
  induction m with
  | nil => exact .inl rfl
  | cons c rest ih =>
    by_cases hb : c.1 = a
    · right; subst hb; simp [Memory.peek]
    · simp only [Memory.peek, if_neg hb]
      rcases ih with h | h
      · exact .inl h
      · exact .inr (List.mem_cons_of_mem _ h)

/-- An entry of a written memory is the written one or an old one. -/
theorem Memory.mem_put {m : Memory} {a : Nat} {v : Nat} {c : Cell} (h : c ∈ Memory.put m a v) :
    (c = (a, v) ∧ v ≠ Memory.unlisted) ∨ c ∈ m := by
  induction m with
  | nil =>
    simp only [Memory.put] at h
    split at h <;> simp_all
  | cons d rest ih =>
    simp only [Memory.put] at h
    split at h
    · split at h <;> simp_all
    · split at h
      · split at h <;> simp_all
        tauto
      · rcases List.mem_cons.mp h with rfl | h
        · exact .inr (by simp)
        · rcases ih h with h | h
          · exact .inl h
          · exact .inr (by simp [h])

/-- A write keeps the canonical form. -/
theorem Memory.put_wf {m : Memory} (h : m.wf) (a : Nat) (v : Nat) : (Memory.put m a v).wf := by
  obtain ⟨hs, hn⟩ := h
  refine ⟨?_, fun c hc => ?_⟩
  · clear hn
    induction m with
    | nil => simp only [Memory.put]; split <;> simp
    | cons d rest ih =>
      have hs' := List.pairwise_cons.mp hs
      simp only [Memory.put]
      split
      · rename_i hlt
        split
        · exact hs
        · refine List.pairwise_cons.mpr ⟨fun c hc => ?_, hs⟩
          rcases List.mem_cons.mp hc with rfl | hc
          · exact hlt
          · have := hs'.1 c hc; dsimp at *; omega
      · split
        · rename_i heq
          split
          · exact hs'.2
          · refine List.pairwise_cons.mpr ⟨fun c hc => ?_, hs'.2⟩
            have := hs'.1 c hc; dsimp at *; omega
        · refine List.pairwise_cons.mpr ⟨fun c hc => ?_, ih hs'.2⟩
          rcases Memory.mem_put hc with ⟨rfl, -⟩ | hc
          · dsimp at *; omega
          · exact hs'.1 c hc
  · rcases Memory.mem_put hc with ⟨rfl, hv⟩ | hc
    · exact hv
    · exact hn c hc

/-- A write of a value in `[0, P)` to a cell of the bank keeps the entries in the bank and in `[0, P)`. -/
theorem Memory.put_fits {m : Memory} {cfg : Config} (h : m.fits cfg) {a : Nat} {v : Nat}
    (ha : a < cfg.memorySize) (hv : v < cfg.globalModulus) : (Memory.put m a v).fits cfg := by
  intro c hc
  rcases Memory.mem_put hc with ⟨rfl, -⟩ | hc
  · exact ⟨ha, hv⟩
  · exact h c hc

/-- A read of the written cell gives the written value. -/
theorem Memory.peek_put_self {m : Memory} (h : m.wf) (a : Nat) (v : Nat) :
    Memory.peek (Memory.put m a v) a = v := by
  induction m with
  | nil => simp only [Memory.put]; split <;> simp_all [Memory.peek]
  | cons d rest ih =>
    obtain ⟨hs, hn⟩ := h
    have hs' := List.pairwise_cons.mp hs
    simp only [Memory.put]
    split
    · rename_i hlt
      split
      · rename_i hv
        rw [hv]
        refine Memory.peek_of_lt fun c hc => ?_
        rcases List.mem_cons.mp hc with rfl | hc
        · exact hlt
        · exact lt_trans hlt (hs'.1 c hc)
      · simp [Memory.peek]
    · split
      · rename_i heq
        split
        · rename_i hv
          rw [hv]
          exact Memory.peek_of_lt fun c hc => by have := hs'.1 c hc; dsimp at *; omega
        · simp [Memory.peek]
      · rename_i hne
        simp only [Memory.peek]
        rw [if_neg (by omega)]
        exact ih ⟨hs'.2, fun e he => hn e (by simp [he])⟩

/-- A write leaves every other cell as it was. -/
theorem Memory.peek_put_other {m : Memory} {a b : Nat} (hab : b ≠ a) (v : Nat) :
    Memory.peek (Memory.put m a v) b = Memory.peek m b := by
  induction m with
  | nil => simp only [Memory.put]; split <;> simp [Memory.peek, Ne.symm hab]
  | cons d rest ih =>
    simp only [Memory.put]
    split
    · split <;> simp [Memory.peek, Ne.symm hab]
    · split
      · rename_i heq
        split <;> simp [Memory.peek, Ne.symm hab, ← heq]
      · simp only [Memory.peek, ih]

/-- What a memory in `[0, P)` reads is in `[0, P)`. -/
theorem Memory.peek_lt {m : Memory} {cfg : Config} (h : m.fits cfg) (hp : 0 < cfg.globalModulus) (a : Nat) :
    Memory.peek m a < cfg.globalModulus := by
  rcases Memory.peek_cases m a with hu | hm
  · rw [hu]; exact hp
  · exact (h _ hm).2

/-- Loading a program keeps the canonical form. -/
theorem loadFrom_wf (p : Nat) (program : List Int) (i : Nat) {m : Memory} (h : m.wf) :
    (loadFrom p i program m).wf := by
  induction program generalizing i m with
  | nil => exact h
  | cons r rest ih => exact ih (i + 1) (Memory.put_wf h i _)

/-- The memory of the reset state has the canonical form. -/
theorem State.reset_mem_wf : State.reset.mem.wf := by decide

end Sys2Proof.Machine
end

