-- ==== Sys2Proof/Laws/State.lean ====
section
/-! SUPPORT. One lemma per field per state update, so that no later proof unfolds a record update. -/

namespace Sys2Proof.Machine

variable (s : State)

/-! ### putAcc -/

@[simp] theorem State.putAcc_cfg (c : ModularCell) : (s.putAcc c).cfg = s.cfg := rfl
@[simp] theorem State.putAcc_mem (c : ModularCell) : (s.putAcc c).mem = s.mem := rfl
@[simp] theorem State.putAcc_acc (c : ModularCell) : (s.putAcc c).acc = c.value := rfl
@[simp] theorem State.putAcc_pc (c : ModularCell) : (s.putAcc c).pc = s.pc := rfl
@[simp] theorem State.putAcc_neg (c : ModularCell) : (s.putAcc c).neg = s.neg := rfl
@[simp] theorem State.putAcc_halt (c : ModularCell) : (s.putAcc c).halt = s.halt := rfl
@[simp] theorem State.putAcc_run (c : ModularCell) : (s.putAcc c).run = s.run := rfl
@[simp] theorem State.putAcc_input (c : ModularCell) : (s.putAcc c).input = s.input := rfl
@[simp] theorem State.putAcc_output (c : ModularCell) : (s.putAcc c).output = s.output := rfl

/-! ### putPc -/

@[simp] theorem State.putPc_cfg (c : ModularCell) : (s.putPc c).cfg = s.cfg := rfl
@[simp] theorem State.putPc_mem (c : ModularCell) : (s.putPc c).mem = s.mem := rfl
@[simp] theorem State.putPc_acc (c : ModularCell) : (s.putPc c).acc = s.acc := rfl
@[simp] theorem State.putPc_pc (c : ModularCell) : (s.putPc c).pc = c.value := rfl
@[simp] theorem State.putPc_neg (c : ModularCell) : (s.putPc c).neg = s.neg := rfl
@[simp] theorem State.putPc_halt (c : ModularCell) : (s.putPc c).halt = s.halt := rfl
@[simp] theorem State.putPc_run (c : ModularCell) : (s.putPc c).run = s.run := rfl
@[simp] theorem State.putPc_input (c : ModularCell) : (s.putPc c).input = s.input := rfl
@[simp] theorem State.putPc_output (c : ModularCell) : (s.putPc c).output = s.output := rfl

/-! ### putMem -/

@[simp] theorem State.putMem_cfg (a : Nat) (c : ModularCell) : (s.putMem a c).cfg = s.cfg := rfl
@[simp] theorem State.putMem_mem (a : Nat) (c : ModularCell) : (s.putMem a c).mem = s.mem.put a c.value := rfl
@[simp] theorem State.putMem_acc (a : Nat) (c : ModularCell) : (s.putMem a c).acc = s.acc := rfl
@[simp] theorem State.putMem_pc (a : Nat) (c : ModularCell) : (s.putMem a c).pc = s.pc := rfl
@[simp] theorem State.putMem_neg (a : Nat) (c : ModularCell) : (s.putMem a c).neg = s.neg := rfl
@[simp] theorem State.putMem_halt (a : Nat) (c : ModularCell) : (s.putMem a c).halt = s.halt := rfl
@[simp] theorem State.putMem_run (a : Nat) (c : ModularCell) : (s.putMem a c).run = s.run := rfl
@[simp] theorem State.putMem_input (a : Nat) (c : ModularCell) : (s.putMem a c).input = s.input := rfl
@[simp] theorem State.putMem_output (a : Nat) (c : ModularCell) : (s.putMem a c).output = s.output := rfl

/-! ### setNeg -/

@[simp] theorem State.setNeg_cfg (b : Bool) : (s.setNeg b).cfg = s.cfg := rfl
@[simp] theorem State.setNeg_mem (b : Bool) : (s.setNeg b).mem = s.mem := rfl
@[simp] theorem State.setNeg_acc (b : Bool) : (s.setNeg b).acc = s.acc := rfl
@[simp] theorem State.setNeg_pc (b : Bool) : (s.setNeg b).pc = s.pc := rfl
@[simp] theorem State.setNeg_neg (b : Bool) : (s.setNeg b).neg = b := rfl
@[simp] theorem State.setNeg_halt (b : Bool) : (s.setNeg b).halt = s.halt := rfl
@[simp] theorem State.setNeg_run (b : Bool) : (s.setNeg b).run = s.run := rfl
@[simp] theorem State.setNeg_input (b : Bool) : (s.setNeg b).input = s.input := rfl
@[simp] theorem State.setNeg_output (b : Bool) : (s.setNeg b).output = s.output := rfl

/-! ### consume -/

@[simp] theorem State.consume_cfg : s.consume.cfg = s.cfg := rfl
@[simp] theorem State.consume_mem : s.consume.mem = s.mem := rfl
@[simp] theorem State.consume_acc : s.consume.acc = s.acc := rfl
@[simp] theorem State.consume_pc : s.consume.pc = s.pc := rfl
@[simp] theorem State.consume_neg : s.consume.neg = s.neg := rfl
@[simp] theorem State.consume_halt : s.consume.halt = s.halt := rfl
@[simp] theorem State.consume_run : s.consume.run = s.run := rfl
@[simp] theorem State.consume_input : s.consume.input = s.input.tail := rfl
@[simp] theorem State.consume_output : s.consume.output = s.output := rfl

/-! ### emit -/

@[simp] theorem State.emit_cfg (v : Nat) : (s.emit v).cfg = s.cfg := rfl
@[simp] theorem State.emit_mem (v : Nat) : (s.emit v).mem = s.mem := rfl
@[simp] theorem State.emit_acc (v : Nat) : (s.emit v).acc = s.acc := rfl
@[simp] theorem State.emit_pc (v : Nat) : (s.emit v).pc = s.pc := rfl
@[simp] theorem State.emit_neg (v : Nat) : (s.emit v).neg = s.neg := rfl
@[simp] theorem State.emit_halt (v : Nat) : (s.emit v).halt = s.halt := rfl
@[simp] theorem State.emit_run (v : Nat) : (s.emit v).run = s.run := rfl
@[simp] theorem State.emit_input (v : Nat) : (s.emit v).input = s.input := rfl
@[simp] theorem State.emit_output (v : Nat) : (s.emit v).output = s.output ++ [v] := rfl

/-! ### raise -/

@[simp] theorem State.raise_cfg (e : ErrorKind) : (s.raise e).cfg = s.cfg := rfl
@[simp] theorem State.raise_mem (e : ErrorKind) : (s.raise e).mem = s.mem := rfl
@[simp] theorem State.raise_acc (e : ErrorKind) : (s.raise e).acc = s.acc := rfl
@[simp] theorem State.raise_pc (e : ErrorKind) : (s.raise e).pc = s.pc := rfl
@[simp] theorem State.raise_neg (e : ErrorKind) : (s.raise e).neg = s.neg := rfl
@[simp] theorem State.raise_halt (e : ErrorKind) : (s.raise e).halt = s.halt := rfl
@[simp] theorem State.raise_run (e : ErrorKind) : (s.raise e).run = .stopped e := rfl
@[simp] theorem State.raise_input (e : ErrorKind) : (s.raise e).input = s.input := rfl
@[simp] theorem State.raise_output (e : ErrorKind) : (s.raise e).output = s.output := rfl

/-! ### haltNow -/

@[simp] theorem State.haltNow_cfg : s.haltNow.cfg = s.cfg := rfl
@[simp] theorem State.haltNow_mem : s.haltNow.mem = s.mem := rfl
@[simp] theorem State.haltNow_acc : s.haltNow.acc = s.acc := rfl
@[simp] theorem State.haltNow_pc : s.haltNow.pc = s.pc := rfl
@[simp] theorem State.haltNow_neg : s.haltNow.neg = s.neg := rfl
@[simp] theorem State.haltNow_halt : s.haltNow.halt = true := rfl
@[simp] theorem State.haltNow_run : s.haltNow.run = .halted := rfl
@[simp] theorem State.haltNow_input : s.haltNow.input = s.input := rfl
@[simp] theorem State.haltNow_output : s.haltNow.output = s.output := rfl

/-! ### advance -/

@[simp] theorem State.advance_cfg : s.advance.cfg = s.cfg := rfl
@[simp] theorem State.advance_mem : s.advance.mem = s.mem := rfl
@[simp] theorem State.advance_acc : s.advance.acc = s.acc := rfl
@[simp] theorem State.advance_pc : s.advance.pc = normalise (s.pc + 1) s.cfg.memorySize := rfl
@[simp] theorem State.advance_neg : s.advance.neg = s.neg := rfl
@[simp] theorem State.advance_halt : s.advance.halt = s.halt := rfl
@[simp] theorem State.advance_run : s.advance.run = s.run := rfl
@[simp] theorem State.advance_input : s.advance.input = s.input := rfl
@[simp] theorem State.advance_output : s.advance.output = s.output := rfl

/-! ### The registers seen as modular cells -/

@[simp] theorem State.accCell_value : s.accCell.value = s.acc := rfl
@[simp] theorem State.accCell_modulus : s.accCell.modulus = s.cfg.globalModulus := rfl
@[simp] theorem State.pcCell_value : s.pcCell.value = s.pc := rfl
@[simp] theorem State.pcCell_modulus : s.pcCell.modulus = s.cfg.memorySize := rfl
@[simp] theorem State.memCell_value (a : Nat) : (s.memCell a).value = s.mem.peek a := rfl
@[simp] theorem State.memCell_modulus (a : Nat) : (s.memCell a).modulus = s.cfg.globalModulus := rfl

end Sys2Proof.Machine
end

