-- ==== Sys2Proof/Laws/Ops.lean ====
section
/-! SUPPORT. For each shared operation one lemma that says once all it can do; proofs cite these and do not unfold the operations. -/

namespace Sys2Proof

/-! ## Normalising -/

/-- A normalised value is below a positive modulus. -/
theorem normalise_lt (r : Int) {m : Nat} (h : 0 < m) : normalise r m < m := by
  have h1 := Int.emod_nonneg r (b := (m : Int)) (by omega)
  have h2 := Int.emod_lt_of_pos r (b := (m : Int)) (by omega)
  simp only [normalise]; omega

/-- A natural number normalises to its remainder. -/
@[simp] theorem normalise_natCast (n m : Nat) : normalise (n : Int) m = n % m := by
  simp only [normalise]; omega

/-- A sum of natural numbers normalises to its remainder. -/
@[simp] theorem normalise_natCast_add (a b m : Nat) : normalise ((a : Int) + (b : Int)) m = (a + b) % m := by
  rw [← normalise_natCast]; simp

/-- The advance's sum normalises to its remainder. -/
@[simp] theorem normalise_natCast_succ (a m : Nat) : normalise ((a : Int) + 1) m = (a + 1) % m := by
  exact_mod_cast normalise_natCast_add a 1 m

/-- The difference of two values in `[0, m)` wraps once if it is negative. -/
theorem normalise_sub {a b m : Nat} (ha : a < m) (hb : b < m) :
    normalise ((a : Int) - (b : Int)) m = if a < b then a + m - b else a - b := by
  have hm : (0 : Int) < m := by omega
  simp only [normalise]
  split
  · rw [← Int.add_emod_right, Int.emod_eq_of_lt (by omega) (by omega)]; omega
  · rw [Int.emod_eq_of_lt (by omega) (by omega)]; omega

/-! ## The modular cell -/

@[simp] theorem ModularCell.read_eq (c : ModularCell) : c.read = c.value := rfl
@[simp] theorem ModularCell.assign_value (c : ModularCell) (r : Int) :
    (c.assign r).value = normalise r c.modulus := rfl
@[simp] theorem ModularCell.assign_modulus (c : ModularCell) (r : Int) : (c.assign r).modulus = c.modulus := rfl
@[simp] theorem ModularCell.addInPlace_value (c : ModularCell) (k : Int) :
    (c.addInPlace k).value = normalise (c.value + k) c.modulus := rfl
@[simp] theorem ModularCell.addInPlace_modulus (c : ModularCell) (k : Int) :
    (c.addInPlace k).modulus = c.modulus := rfl
@[simp] theorem ModularCell.subtractInPlace_value (c : ModularCell) (k : Int) :
    (c.subtractInPlace k).value = normalise (c.value - k) c.modulus := rfl
@[simp] theorem ModularCell.subtractInPlace_modulus (c : ModularCell) (k : Int) :
    (c.subtractInPlace k).modulus = c.modulus := rfl
@[simp] theorem ModularCell.equalsInt_zero (c : ModularCell) : c.equalsInt 0 = decide (c.value = 0) := by
  simp [ModularCell.equalsInt]

namespace Machine

/-! ## The bank primitives -/

/-- What `MemRead` can do. -/
theorem memRead_eq (s : State) (a : Nat) :
    memRead s a = if a < s.cfg.memorySize then .ok (s.mem.peek a) else .error (.outOfBounds a) := rfl

/-- What `MemWrite` can do. -/
theorem memWrite_eq (s : State) (a : Nat) (v : Int) :
    memWrite s a v =
      if a < s.cfg.memorySize then .ok (s.putMem a ((s.memCell a).assign v)) else .error (.outOfBounds a) := rfl

/-- A completed write: the state it gives and where it wrote. -/
theorem memWrite_ok {s t : State} {a : Nat} {v : Int} (h : memWrite s a v = .ok t) :
    a < s.cfg.memorySize ∧ t = { s with mem := s.mem.put a (normalise v s.cfg.globalModulus) } := by
  rw [memWrite_eq] at h
  split at h
  · next ha => exact ⟨ha, by cases h; rfl⟩
  · cases h

/-- What a data operand can give. -/
theorem readOperand_eq (s : State) (x : Nat) :
    readOperand s x = if x < s.cfg.memorySize then .ok (s.mem.peek x) else .error (.outOfBounds x) := rfl

/-- What a store can do. -/
theorem writeOperand_eq (s : State) (x : Nat) (v : Int) :
    writeOperand s x v =
      if x < s.cfg.memorySize then .ok (s.putMem x ((s.memCell x).assign v)) else .error (.outOfBounds x) := rfl

/-- What the fetch can give. -/
theorem fetch_eq (s : State) :
    fetch s = if s.pc < s.cfg.memorySize then .ok (s.mem.peek s.pc) else .error (.outOfBounds s.pc) := rfl

/-! ## Control, flags, channels -/

/-- A taken branch writes the program counter and nothing else. -/
@[simp] theorem branchTo_eq (s : State) (x : Nat) : branchTo s x = { s with pc := x % s.cfg.memorySize } := by
  simp [branchTo, State.putPc]

/-- The advance writes the program counter and nothing else. -/
theorem State.advance_eq (s : State) : s.advance = { s with pc := (s.pc + 1) % s.cfg.memorySize } := by
  simp [State.advance, State.putPc]

/-- The flag is the borrow of the two values. -/
@[simp] theorem negOfDifference_eq (a v : Nat) : negOfDifference a v = decide (a < v) := by
  simp [negOfDifference]

/-- What the input channel can answer. -/
theorem State.inResponse_eq (s : State) :
    (s.inResponse = .exhausted ∧ s.input = []) ∨
    (∃ r rest, s.inResponse = .item r ∧ s.input = r :: rest ∧ s.consume = { s with input := rest }) := by
  obtain ⟨_, _, _, _, _, _, _, input, _⟩ := s
  cases input with
  | nil => exact .inl ⟨rfl, rfl⟩
  | cons r rest => exact .inr ⟨r, rest, rfl, rfl, rfl⟩

/-! ## The end of an execute phase -/

/-- Every execute phase ends in a next state: its result, or the state of the raise with the run stopped. -/
theorem finish_next {s t : State} {r : Except ErrorKind State} (h : finish s r = .next t) :
    r = .ok t ∨ ∃ e, r = .error e ∧ t = s.raise e := by
  cases r with
  | ok u => left; simp only [finish] at h; cases h; rfl
  | error e => right; simp only [finish] at h; cases h; exact ⟨e, rfl, rfl⟩

end Machine
end Sys2Proof
end

