-- ==== Sys2Proof/Laws/PerInstr.lean ====
section
/-! SUPPORT. A statement about every instruction as syntax, one lemma per constructor: a well-formed instruction's code lies in the code
range of its row of spec/opcode_table.json. -/

namespace Sys2Proof.Laws.EncodeInRow

/-- The least code of the instruction's row (`code_min`). -/
def codeMin : Instr → Nat
  | .hlt => 0
  | .add _ => 100
  | .sub _ => 200
  | .sta _ => 300
  | .lda _ => 500
  | .bra _ => 600
  | .brz _ => 700
  | .brp _ => 800
  | .inp => 901
  | .out => 902
  | .unmatched4xx _ => 400
  | .unmatched900 => 900
  | .unmatched9xx _ => 903
  | .unmatchedAbove999 _ => 1000

/-- The greatest code of the instruction's row (`code_max`); the last row has none. -/
def codeMax : Instr → Option Nat
  | .hlt => some 99
  | .add _ => some 199
  | .sub _ => some 299
  | .sta _ => some 399
  | .lda _ => some 599
  | .bra _ => some 699
  | .brz _ => some 799
  | .brp _ => some 899
  | .inp => some 901
  | .out => some 902
  | .unmatched4xx _ => some 499
  | .unmatched900 => some 900
  | .unmatched9xx _ => some 999
  | .unmatchedAbove999 _ => none

/-- A well-formed instruction is encoded in its row. -/
def Statement (i : Instr) : Prop :=
  i.wellFormed = true → codeMin i ≤ encode i ∧ ∀ m ∈ codeMax i, encode i ≤ m

/-- A row of one hundred: its first code plus a two-digit address. -/
theorem in_hundred (base x : Nat) (h : x ≤ 99) : base ≤ base + x ∧ ∀ m ∈ some (base + 99), base + x ≤ m :=
  ⟨Nat.le_add_right base x, fun _ hm => Option.some.inj hm ▸ Nat.add_le_add_left h base⟩

/-- A row whose instruction carries its code, or has one code. -/
theorem in_range {low high code : Nat} (h : low ≤ code ∧ code ≤ high) : low ≤ code ∧ ∀ m ∈ some high, code ≤ m :=
  ⟨h.1, fun _ hm => Option.some.inj hm ▸ h.2⟩

theorem hlt : Statement .hlt := fun _ => in_range ⟨Nat.le_refl 0, Nat.zero_le 99⟩
theorem add (x : Nat) : Statement (.add x) := fun h => in_hundred 100 x (of_decide_eq_true h)
theorem sub (x : Nat) : Statement (.sub x) := fun h => in_hundred 200 x (of_decide_eq_true h)
theorem sta (x : Nat) : Statement (.sta x) := fun h => in_hundred 300 x (of_decide_eq_true h)
theorem lda (x : Nat) : Statement (.lda x) := fun h => in_hundred 500 x (of_decide_eq_true h)
theorem bra (x : Nat) : Statement (.bra x) := fun h => in_hundred 600 x (of_decide_eq_true h)
theorem brz (x : Nat) : Statement (.brz x) := fun h => in_hundred 700 x (of_decide_eq_true h)
theorem brp (x : Nat) : Statement (.brp x) := fun h => in_hundred 800 x (of_decide_eq_true h)
theorem inp : Statement .inp := fun _ => in_range ⟨Nat.le_refl 901, Nat.le_refl 901⟩
theorem out : Statement .out := fun _ => in_range ⟨Nat.le_refl 902, Nat.le_refl 902⟩
theorem unmatched4xx (code : Nat) : Statement (.unmatched4xx code) := fun h => in_range (of_decide_eq_true h)
theorem unmatched900 : Statement .unmatched900 := fun _ => in_range ⟨Nat.le_refl 900, Nat.le_refl 900⟩
theorem unmatched9xx (code : Nat) : Statement (.unmatched9xx code) := fun h => in_range (of_decide_eq_true h)
theorem unmatchedAbove999 (code : Nat) : Statement (.unmatchedAbove999 code) :=
  fun h => ⟨of_decide_eq_true h, fun _ hm => nomatch hm⟩

end Sys2Proof.Laws.EncodeInRow
end

