-- ==== Sys2Proof/Laws/Safety.lean ====
section
/-! SUPPORT. Small lemmas of the invariant and of a run's end. -/

namespace Sys2Proof.Machine

/-- The invariant from its parts as one decidable proposition. -/
theorem State.inv_of_parts {s : State}
    (h : 0 < s.cfg.globalModulus ∧ 0 < s.cfg.memorySize ∧ s.mem.wf ∧ s.mem.fits s.cfg ∧
      s.acc < s.cfg.globalModulus ∧ s.pc < s.cfg.memorySize ∧ (s.run = .halted ↔ s.halt = true) ∧
      ∀ v ∈ s.output, v < s.cfg.globalModulus) : s.Inv :=
  ⟨h.1, h.2.1, h.2.2.1, h.2.2.2.1, h.2.2.2.2.1, h.2.2.2.2.2.1, h.2.2.2.2.2.2.1, h.2.2.2.2.2.2.2⟩

/-- What a cell of an engine reads is in `[0, P)`. -/
theorem State.Inv.peek_lt {s : State} (h : s.Inv) (a : Nat) : s.mem.peek a < s.cfg.globalModulus :=
  Memory.peek_lt h.mem_fits h.modulus_pos a

/-- A running engine's halt flag is clear. -/
theorem State.Inv.halt_false {s : State} (h : s.Inv) (hr : s.run = .running) : s.halt = false := by
  have := h.halt_iff
  rw [hr] at this
  simpa using this

/-- One cycle of a run under a ceiling. -/
theorem runFor_succ {s t : State} (hr : s.run = .running) (h : step s = .next t) (fuel : Nat) :
    runFor (fuel + 1) s = runFor fuel t := by
  simp only [runFor, hr, h]

/-- One cycle counted. -/
theorem cyclesFor_succ {s t : State} (hr : s.run = .running) (h : step s = .next t) (fuel : Nat) :
    cyclesFor (fuel + 1) s = cyclesFor fuel t + 1 := by
  simp only [cyclesFor, hr, h]

end Sys2Proof.Machine
end

