-- ==== Sys2Proof/Laws/Step.lean ====
section
/-! SUPPORT. What one cycle can do, said once. -/

namespace Sys2Proof.Machine

/-- If a cycle answers a next state, the engine was running, and either the fetched code was decoded and executed with the program
counter advanced, or (in a state no engine reaches) the fetch itself raised. -/
theorem step_next {s t : State} (h : step s = .next t) :
    s.run = .running ∧
      ((s.pc < s.cfg.memorySize ∧ exec (decode (s.mem.peek s.pc)) s.advance = .next t) ∨
        (¬ s.pc < s.cfg.memorySize ∧ t = s.raise (.outOfBounds s.pc))) := by
  unfold step at h
  split at h
  · next hr =>
    refine ⟨hr, ?_⟩
    rw [fetch_eq] at h
    by_cases hp : s.pc < s.cfg.memorySize
    · rw [if_pos hp] at h; exact .inl ⟨hp, h⟩
    · rw [if_neg hp] at h; cases h; exact .inr ⟨hp, rfl⟩
  · cases h
  · cases h

end Sys2Proof.Machine
end

