-- ==== Sys2Proof/Tests/Slice0.lean ====
section
/-! SUPPORT. Tests of one step each, with expected values from spec/95_test_vectors.md; the WellFormed smoke tests; the decoding of codes
written out from 30_encoding.md R74 and R83; and a witness for the hypotheses of each statement. -/

namespace Sys2Proof.Tests

open Sys2Proof Sys2Proof.Machine

/-- The next state, if the outcome is one. -/
def nextOf : Host.Outcome State Fault Refusal → Option State
  | .next s => some s
  | .fault _ => none
  | .refused _ => none

/-- A default engine with a program counter and some cells. -/
def bench (pc : Nat) (mem : Memory) : State := { State.reset with pc := pc, mem := mem }

/-- The same engine with `N` cells. -/
def benchOf (memorySize pc : Nat) (mem : Memory) : State :=
  { bench pc mem with cfg := ⟨1000, memorySize, .permissive⟩ }

/-- The same engine with the strict policy. -/
def strictBench (pc : Nat) (mem : Memory) : State := { bench pc mem with cfg := ⟨1000, 100, .strict⟩ }

/-! ## WellFormed refuses an ill-formed term at each check -/

theorem test_wf_refuses_add : (Instr.add 100).wellFormed = false := by decide
theorem test_wf_refuses_sub : (Instr.sub 100).wellFormed = false := by decide
theorem test_wf_refuses_sta : (Instr.sta 100).wellFormed = false := by decide
theorem test_wf_refuses_lda : (Instr.lda 100).wellFormed = false := by decide
theorem test_wf_refuses_bra : (Instr.bra 100).wellFormed = false := by decide
theorem test_wf_refuses_brz : (Instr.brz 100).wellFormed = false := by decide
theorem test_wf_refuses_brp : (Instr.brp 100).wellFormed = false := by decide
theorem test_wf_refuses_unmatched4xx :
    (Instr.unmatched4xx 399).wellFormed = false ∧ (Instr.unmatched4xx 500).wellFormed = false := by decide
theorem test_wf_refuses_unmatched9xx :
    (Instr.unmatched9xx 902).wellFormed = false ∧ (Instr.unmatched9xx 1000).wellFormed = false := by decide
theorem test_wf_refuses_unmatchedAbove999 : (Instr.unmatchedAbove999 999).wellFormed = false := by decide

/-! ## Decode: 95_test_vectors.md section 2.2, the ends of every range -/

theorem test_decode_hlt : decode 0 = .hlt ∧ decode 42 = .hlt ∧ decode 99 = .hlt := by decide
theorem test_decode_add : decode 100 = .add 0 ∧ decode 199 = .add 99 := by decide
theorem test_decode_sub : decode 200 = .sub 0 ∧ decode 299 = .sub 99 := by decide
theorem test_decode_sta : decode 300 = .sta 0 ∧ decode 399 = .sta 99 := by decide
theorem test_decode_lda : decode 500 = .lda 0 ∧ decode 520 = .lda 20 ∧ decode 599 = .lda 99 := by decide
theorem test_decode_bra : decode 600 = .bra 0 ∧ decode 699 = .bra 99 := by decide
theorem test_decode_brz : decode 700 = .brz 0 ∧ decode 799 = .brz 99 := by decide
theorem test_decode_brp : decode 800 = .brp 0 ∧ decode 899 = .brp 99 := by decide
theorem test_decode_inp : decode 901 = .inp := by decide
theorem test_decode_out : decode 902 = .out := by decide
theorem test_decode_unmatched4xx : decode 400 = .unmatched4xx 400 ∧ decode 499 = .unmatched4xx 499 := by decide
theorem test_decode_unmatched900 : decode 900 = .unmatched900 := by decide
theorem test_decode_unmatched9xx : decode 903 = .unmatched9xx 903 ∧ decode 999 = .unmatched9xx 999 := by decide
theorem test_decode_unmatchedAbove999 :
    decode 1105 = .unmatchedAbove999 1105 ∧ decode 1520 = .unmatchedAbove999 1520 := by decide

/-! ## One step each: 95_test_vectors.md sections 2.3 to 2.14 -/

/-- Section 2.3: 999 + 999 wraps, NEG is not written. -/
theorem test_add_wraps_and_keeps_neg :
    (nextOf (step { bench 0 [(0, 120), (20, 999)] with acc := 999, neg := true })).map
      (fun t => (t.acc, t.neg, t.pc)) = some (998, true, 1) := by decide

/-- Section 2.3, error case: the advance stays. -/
theorem test_add_out_of_bounds :
    nextOf (step (benchOf 50 0 [(0, 175)])) =
      some { benchOf 50 0 [(0, 175)] with pc := 1, run := .stopped (.outOfBounds 75) } := by decide

/-- Section 1, S-C. -/
theorem test_sub_borrows :
    (nextOf (step { bench 0 [(0, 210), (10, 5)] with acc := 3 })).map (fun t => (t.acc, t.neg, t.pc)) =
      some (998, true, 1) := by decide

/-- Section 2.4: NEG is overwritten, not accumulated. -/
theorem test_sub_clears_neg :
    (nextOf (step { bench 0 [(0, 210), (10, 3)] with acc := 5, neg := true })).map (fun t => (t.acc, t.neg)) =
      some (2, false) := by decide

/-- Section 2.5. -/
theorem test_sta_stores :
    nextOf (step { bench 0 [(0, 315)] with acc := 42 }) =
      some { bench 1 [(0, 315), (15, 42)] with acc := 42 } := by decide

/-- Section 2.5: a store of 0 to its own cell turns it into HLT. -/
theorem test_sta_overwrites_itself :
    (nextOf (step (bench 7 [(7, 307)]))).map (fun t => (t.mem, decode (t.mem.peek 7))) = some ([], .hlt) := by decide

/-- Section 2.6: NEG is unchanged. -/
theorem test_lda_loads :
    (nextOf (step { bench 0 [(0, 520), (20, 5)] with neg := true })).map (fun t => (t.acc, t.neg)) =
      some (5, true) := by decide

/-- Section 2.6: LDA of its own cell loads its code. -/
theorem test_lda_own_cell :
    (nextOf (step (bench 7 [(7, 507)]))).map (fun t => t.acc) = some 507 := by decide

/-- Section 2.7: with `N = 50` the target wraps. -/
theorem test_bra_wraps : (nextOf (step (benchOf 50 0 [(0, 675)]))).map (fun t => t.pc) = some 25 := by decide

/-- Section 2.7: `BRA 5` at 5. -/
theorem test_bra_to_itself : nextOf (step (bench 5 [(5, 605)])) = some (bench 5 [(5, 605)]) := by decide

/-- Section 2.8: taken on zero whatever NEG is. -/
theorem test_brz_taken :
    (nextOf (step { bench 3 [(3, 712)] with neg := true })).map (fun t => t.pc) = some 12 := by decide

/-- Section 2.8. -/
theorem test_brz_not_taken :
    (nextOf (step { bench 3 [(3, 712)] with acc := 999 })).map (fun t => t.pc) = some 4 := by decide

/-- Section 2.9. -/
theorem test_brp_taken :
    (nextOf (step { bench 5 [(5, 809)] with acc := 998 })).map (fun t => t.pc) = some 9 := by decide

/-- Section 2.9. -/
theorem test_brp_not_taken :
    (nextOf (step { bench 5 [(5, 809)] with neg := true })).map (fun t => t.pc) = some 6 := by decide

/-- Section 2.10: a negative item is normalised, one item is consumed. -/
theorem test_inp_normalises :
    (nextOf (step { bench 0 [(0, 901)] with input := [-1, 4] })).map (fun t => (t.acc, t.input, t.run)) =
      some (999, [4], .running) := by decide

/-- Section 2.10: the accumulator is unchanged. -/
theorem test_inp_exhausted :
    nextOf (step { bench 0 [(0, 901)] with acc := 17 }) =
      some { bench 1 [(0, 901)] with acc := 17, run := .stopped .inputExhausted } := by decide

/-- Section 2.11. -/
theorem test_out_appends :
    (nextOf (step { bench 0 [(0, 902)] with output := [5] })).map (fun t => t.output) = some [5, 0] := by decide

/-- Section 2.12: the advance wraps, the halt does not undo it. -/
theorem test_hlt_at_the_last_cell :
    nextOf (step (bench 99 [(99, 42)])) =
      some { bench 0 [(99, 42)] with halt := true, run := .halted } := by decide

/-- Section 1, S-D, on the empty program of `State.reset`. -/
theorem test_reset_halts :
    (nextOf (step State.reset)).map (fun t => (t.run, t.pc, t.output)) = some (.halted, 1, []) := by decide

/-- Section 2.13 and 45_halt_unmatched.md R152. -/
theorem test_unmatched4xx_permissive : nextOf (step (bench 10 [(10, 450)])) = some (bench 11 [(10, 450)]) := by decide

/-- Section 2.13. -/
theorem test_unmatched4xx_strict :
    nextOf (step (strictBench 0 [(0, 450)])) =
      some { strictBench 1 [(0, 450)] with run := .stopped (.decode 450) } := by decide

/-- 45_halt_unmatched.md R152. -/
theorem test_unmatched900_strict :
    (nextOf (step (strictBench 0 [(0, 900)]))).map (fun t => t.run) = some (.stopped (.decode 900)) := by decide

/-- Section 2.13: 999 is a no-op. -/
theorem test_unmatched9xx_permissive : nextOf (step (bench 0 [(0, 999)])) = some (bench 1 [(0, 999)]) := by decide

/-- Section 2.13: 1520 with `P = 2000` is a no-op. -/
theorem test_unmatchedAbove999_permissive :
    (nextOf (step { bench 0 [(0, 1520)] with cfg := ⟨2000, 100, .permissive⟩ })).map (fun t => (t.pc, t.run)) =
      some (1, .running) := by decide

/-- Section 2.14: the advance wraps at the last cell. -/
theorem test_cycle_wraps :
    (nextOf (step { bench 99 [(5, 6), (99, 105)] with acc := 1 })).map (fun t => (t.pc, t.acc)) = some (0, 7) := by decide

/-- Section 1, S-E, and log 5: a halted engine takes no step and its run changes nothing. -/
theorem test_halted_takes_no_step :
    nextOf (step { bench 1 [] with halt := true, run := .halted }) = none ∧
    nextOf (runFor 9 { bench 1 [] with halt := true, run := .halted }) =
      some { bench 1 [] with halt := true, run := .halted } := by decide

/-! ## Construction and placing a code -/

/-- Section 2.14: the start values are normalised. -/
theorem test_create_normalises_registers :
    (nextOf (create { program := [], programCounterStart := -1, accumulatorStart := -5 } [])).map
      (fun t => (t.pc, t.acc)) = some (99, 995) := by decide

/-- Section 2.13: the loaded cells are normalised. -/
theorem test_create_normalises_program :
    (nextOf (create { program := [-1, -900, 0] } [])).map (fun t => t.mem) = some [(0, 999), (1, 100)] := by decide

/-- Section 2.14: a program of `N` elements is legal, one more is a configuration error, and so is `P = 0`. -/
theorem test_create_checks :
    (nextOf (create { program := [1, 2], memorySize := 2 } [])).isSome = true ∧
    nextOf (create { program := [1, 2, 3], memorySize := 2 } []) = none ∧
    nextOf (create { program := [], globalModulus := 0 } []) = none := by decide

/-- 30_encoding.md R76: a code of `P` or more is held by a larger modulus and is unmatched. -/
theorem test_placed_code_above_999 :
    (nextOf (step (State.reset.withFetchWord 16 1105))).map (fun t => (t.acc, t.pc, t.run)) =
      some (0, 1, .running) := by decide

/-- The table dispatches as the decoded instruction executes: a SUB. -/
theorem test_dispatch_sub :
    (nextOf (dispatch instructionTable 210 { bench 1 [(10, 5)] with acc := 3 })).map (fun t => (t.acc, t.neg)) =
      some (998, true) := by decide

/-! ## Witnesses: a concrete state and operands that meet the hypotheses of each statement -/

theorem witness_CellWriteStoresTrueRemainder : 0 < (⟨998, 1000⟩ : ModularCell).modulus ∧ (bench 99 [(99, 999)]).Inv :=
  ⟨by decide, State.inv_of_parts (by decide)⟩

theorem witness_CellOperationsAreModular :
    0 < (⟨0, 1⟩ : ModularCell).modulus ∧ (0 : Int) ≤ 0 ∧ (0 : Int) < 1 := by decide

theorem witness_BankPrimitivesReadAndWriteOneCell :
    (bench 0 [(99, 5)]).Inv ∧ 99 < (bench 0 [(99, 5)]).cfg.memorySize ∧ (bench 0 [(99, 5)]).cfg.memorySize ≤ 100 :=
  ⟨State.inv_of_parts (by decide), by decide, by decide⟩

theorem witness_EqualReadsMakeEqualMemories :
    ∃ m n : Memory, m.wf ∧ n.wf ∧ ∀ a, m.peek a = n.peek a := ⟨[(1, 2)], [(1, 2)], by decide, by decide, fun _ => rfl⟩

theorem witness_ConstructionSetsEveryField :
    ∃ k : Construction, 0 < k.globalModulus ∧ 0 < k.memorySize ∧ (k.program.length : Int) ≤ k.memorySize :=
  ⟨{ program := [7], memorySize := 1 }, by decide⟩

theorem witness_ConstructionSatisfiesInvariant : ∃ k t, create k [4] = .next t :=
  ⟨{ program := [-1, 901] }, _, rfl⟩

theorem witness_StepKeepsInvariant : ∃ s t : State, s.Inv ∧ step s = .next t :=
  ⟨bench 99 [(99, 399)], _, State.inv_of_parts (by decide), rfl⟩

theorem witness_EveryRunAnswersAStateWithInvariant : (benchOf 1 0 [(0, 600)]).Inv := State.inv_of_parts (by decide)

theorem witness_DecodeOfEncodeIsTheInstruction :
    (Instr.add 99).wellFormed = true ∧ (Instr.unmatched9xx 903).wellFormed = true ∧ 99 ≤ 99 := by decide

theorem witness_RulesAreDisjointInAnyOrder : instructionTable.reverse.Perm instructionTable :=
  List.reverse_perm instructionTable

theorem witness_DispatcherExecutesTheDecodedInstruction :
    (∃ r ∈ instructionTable, r.name = "ADD" ∧ r.predicate 199 = true ∧ r.predicate 200 = false) ∧
    (∀ q ∈ instructionTable, q.predicate 450 = false) ∧
    (∃ before r rest, instructionTable = before ++ r :: rest ∧ (∀ q ∈ before, q.predicate 299 = false) ∧
      r.predicate 299 = true) := by
  refine ⟨by decide, by decide, [.hundred "ADD" 1 execAdd], .hundred "SUB" 2 execSub, instructionTable.drop 2, rfl, ?_⟩
  decide

theorem witness_StepRunsTheDecodedInstruction :
    ∃ s : State, s.run = .running ∧ s.pc < s.cfg.memorySize ∧ decode (s.mem.peek s.pc) = .sub 99 :=
  ⟨bench 99 [(99, 299)], by decide⟩

theorem witness_FetchNeverRaises : (bench 99 [(99, 999)]).Inv := State.inv_of_parts (by decide)

theorem witness_RunningEngineAlwaysCompletesItsCycle : (bench 0 []).run = .running := by decide

/-- The four cases at the last cell: BRA to a target outside the bank, BRZ and BRP each taken and not taken, and a cycle that branches
nowhere because it raises. -/
theorem witness_CycleAdvancesOrBranches :
    (∃ s t : State, s.pc < s.cfg.memorySize ∧ step s = .next t ∧ decode (s.mem.peek s.pc) = .bra 99 ∧
      s.cfg.memorySize ≤ 99) ∧
    (∃ s t : State, s.pc < s.cfg.memorySize ∧ step s = .next t ∧ decode (s.mem.peek s.pc) = .brz 99 ∧ s.acc = 0) ∧
    (∃ s t : State, s.pc < s.cfg.memorySize ∧ step s = .next t ∧ decode (s.mem.peek s.pc) = .brz 99 ∧ s.acc ≠ 0) ∧
    (∃ s t : State, s.pc < s.cfg.memorySize ∧ step s = .next t ∧ decode (s.mem.peek s.pc) = .brp 99 ∧ s.neg = false) ∧
    (∃ s t : State, s.pc < s.cfg.memorySize ∧ step s = .next t ∧ decode (s.mem.peek s.pc) = .brp 99 ∧ s.neg ≠ false) ∧
    (∃ s t : State, s.pc < s.cfg.memorySize ∧ step s = .next t ∧ decode (s.mem.peek s.pc) = .add 99 ∧
      t.run = .stopped (.outOfBounds 99)) :=
  ⟨⟨benchOf 99 98 [(98, 699)], _, by decide, rfl, by decide, by decide⟩,
    ⟨bench 99 [(99, 799)], _, by decide, rfl, by decide, by decide⟩,
    ⟨{ bench 99 [(99, 799)] with acc := 1 }, _, by decide, rfl, by decide, by decide⟩,
    ⟨bench 99 [(99, 899)], _, by decide, rfl, by decide, by decide⟩,
    ⟨{ bench 99 [(99, 899)] with neg := true }, _, by decide, rfl, by decide, by decide⟩,
    ⟨benchOf 99 98 [(98, 199)], _, by decide, rfl, by decide, by decide⟩⟩

theorem witness_EndedEngineTakesNoStep :
    ({ bench 1 [] with run := .stopped .inputExhausted } : State).run ≠ .running := by decide

theorem witness_PlacedCodeIsExecutedNext :
    ∃ s : State, s.run = .running ∧ s.pc < s.cfg.memorySize ∧ s.mem.wf := ⟨bench 99 [(99, 5)], by decide⟩

/-- The clauses of ADD, SUB, STA and LDA: the ends of the code ranges, the last cell, the first address outside. -/
theorem witness_AddStoresTheWrappedSum :
    (100 ≤ 199 ∧ 199 ≤ 199) ∧ 99 < (bench 0 []).cfg.memorySize ∧ (benchOf 99 0 []).cfg.memorySize ≤ 99 := by decide

theorem witness_SubSetsNegAndStoresTheWrappedDifference :
    (200 ≤ 200 ∧ 200 ≤ 299) ∧ ((bench 0 [(99, 999)]).Inv ∧ 99 < (bench 0 [(99, 999)]).cfg.memorySize) ∧
    (benchOf 99 0 []).cfg.memorySize ≤ 99 :=
  ⟨by decide, ⟨State.inv_of_parts (by decide), by decide⟩, by decide⟩

theorem witness_StaStoresTheAccumulator :
    (300 ≤ 399 ∧ 399 ≤ 399) ∧ ((bench 0 [(99, 999)]).Inv ∧ 99 < (bench 0 [(99, 999)]).cfg.memorySize) ∧
    (benchOf 99 0 []).cfg.memorySize ≤ 99 :=
  ⟨by decide, ⟨State.inv_of_parts (by decide), by decide⟩, by decide⟩

theorem witness_LdaLoadsTheCell :
    (500 ≤ 500 ∧ 500 ≤ 599) ∧ ((bench 0 [(0, 999)]).Inv ∧ 0 < (bench 0 [(0, 999)]).cfg.memorySize) ∧
    (benchOf 99 0 []).cfg.memorySize ≤ 99 :=
  ⟨by decide, ⟨State.inv_of_parts (by decide), by decide⟩, by decide⟩

theorem witness_StaThenLdaRestoresTheAccumulator :
    (∃ s t : State, s.Inv ∧ decode (s.mem.peek s.pc) = .sta 99 ∧ step s = .next t ∧ 99 < s.cfg.memorySize ∧
      decode (t.mem.peek t.pc) = .lda 99) ∧
    (∃ s t : State, s.Inv ∧ decode (s.mem.peek s.pc) = .sta 50 ∧ step s = .next t ∧ s.cfg.memorySize ≤ 50) :=
  ⟨⟨{ bench 0 [(0, 399), (1, 599)] with acc := 123 }, _, State.inv_of_parts (by decide), by decide, rfl, by decide,
      by decide⟩,
    ⟨benchOf 50 0 [(0, 350)], _, State.inv_of_parts (by decide), by decide, rfl, by decide⟩⟩

theorem witness_StoredCodeIsFetchedNext :
    ∃ s : State, s.Inv ∧ s.run = .running ∧ decode (s.mem.peek s.pc) = .sta ((s.pc + 1) % s.cfg.memorySize) :=
  ⟨{ bench 99 [(99, 300)] with acc := 902 }, State.inv_of_parts (by decide), by decide, by decide⟩

theorem witness_BraBranchesAlways : 600 ≤ 699 ∧ 699 ≤ 699 := by decide

theorem witness_BrzBranchesOnZeroAccumulator : 700 ≤ 700 ∧ 700 ≤ 799 := by decide

theorem witness_BrpBranchesOnClearNeg : 800 ≤ 899 ∧ 899 ≤ 899 := by decide

theorem witness_BranchToItselfRunsForever :
    ∃ s : State, s.Inv ∧ s.run = .running ∧ decode (s.mem.peek s.pc) = .bra s.pc :=
  ⟨bench 99 [(99, 699)], State.inv_of_parts (by decide), by decide, by decide⟩

theorem witness_InpTakesOneItem :
    (∃ s : State, 0 < s.cfg.globalModulus ∧ s.input = -1 :: [4]) ∧ (bench 0 []).input = [] :=
  ⟨⟨{ bench 0 [] with input := [-1, 4] }, by decide⟩, by decide⟩

theorem witness_OutEmitsTheAccumulator : ∃ c : Nat, c = 902 := ⟨902, rfl⟩

theorem witness_ChannelsFollowTheInterface :
    (∃ s t : State, s.Inv ∧ step s = .next t ∧ s.inReq = false ∧ s.outData = some 0) ∧
    (∃ s t : State, s.Inv ∧ step s = .next t ∧ s.inReq = true ∧ s.inResp = some (.item (-1))) ∧
    (∃ s t : State, s.Inv ∧ step s = .next t ∧ s.inResp = some .exhausted) :=
  ⟨⟨bench 0 [(0, 902)], _, State.inv_of_parts (by decide), rfl, by decide, by decide⟩,
    ⟨{ bench 0 [(0, 901)] with input := [-1] }, _, State.inv_of_parts (by decide), rfl, by decide, by decide⟩,
    ⟨bench 0 [(0, 901)], _, State.inv_of_parts (by decide), rfl, by decide⟩⟩

theorem witness_HltHaltsForGood :
    99 < 100 ∧ ∃ s : State, s.run = .running ∧ s.pc < s.cfg.memorySize ∧ s.mem.peek s.pc < 100 :=
  ⟨by decide, bench 99 [(99, 99)], by decide⟩

theorem witness_UnmatchedCodeIsNoOpOrDecodeError :
    (400 ≤ 499 ∧ 499 ≤ 499) ∧ (903 ≤ 903 ∧ 903 ≤ 999) ∧ 1000 ≤ 1000 ∧ (bench 0 []).cfg.policy = .permissive ∧
    (strictBench 0 []).cfg.policy = .strict := by decide

theorem witness_AllUnmatchedMemoryRunsForever :
    ∃ s : State, s.Inv ∧ s.run = .running ∧ s.cfg.policy = .permissive ∧
      ∀ a, a < s.cfg.memorySize → unmatchedCode (s.mem.peek a) :=
  ⟨benchOf 2 1 [(0, 450), (1, 999)], State.inv_of_parts (by decide), by decide, by decide, by decide⟩

theorem witness_SmallModulusOnlyHalts :
    ∃ s : State, s.Inv ∧ s.run = .running ∧ s.cfg.globalModulus ≤ 100 :=
  ⟨{ bench 0 [(0, 99)] with cfg := ⟨100, 100, .permissive⟩ }, State.inv_of_parts (by decide), by decide⟩

theorem witness_ErrorLeavesOnlyTheAdvance :
    ∃ s t : State, s.Inv ∧ step s = .next t ∧ t.run = .stopped (.outOfBounds 99) :=
  ⟨benchOf 99 98 [(98, 299)], _, State.inv_of_parts (by decide), rfl, by decide⟩

/-- The three errors, each with its cause: the first address outside, the empty input, the first code above 902. -/
theorem witness_EachErrorHasItsCause :
    (∃ s t : State, s.Inv ∧ s.run = .running ∧ step s = .next t ∧ t.run = .stopped (.outOfBounds 50)) ∧
    (∃ s t : State, s.Inv ∧ s.run = .running ∧ step s = .next t ∧ t.run = .stopped .inputExhausted) ∧
    (∃ s t : State, s.Inv ∧ s.run = .running ∧ step s = .next t ∧ t.run = .stopped (.decode 903)) :=
  ⟨⟨benchOf 50 0 [(0, 550)], _, State.inv_of_parts (by decide), rfl, rfl, by decide⟩,
    ⟨bench 0 [(0, 901)], _, State.inv_of_parts (by decide), rfl, rfl, by decide⟩,
    ⟨strictBench 0 [(0, 903)], _, State.inv_of_parts (by decide), rfl, rfl, by decide⟩⟩

theorem witness_EnoughInputMakesRunsSafe :
    ∃ s : State, s.Inv ∧ s.noError ∧ 100 ≤ s.cfg.memorySize ∧ s.cfg.policy = .permissive ∧ 2 ≤ s.input.length :=
  ⟨{ bench 0 [(0, 901), (1, 901)] with input := [1, 2] }, State.inv_of_parts (by decide), fun _ h => (by cases h),
    by decide, by decide, by decide⟩

/-- A writer that is not SUB, a SUB that completes, a SUB that raises, and an instruction that neither writes nor reads the flag. -/
theorem witness_NegIsWrittenBySubAndReadByBrp :
    (∃ t, exec (.add 99) (bench 1 []) = .next t) ∧
    (99 < (bench 1 []).cfg.memorySize ∧ ∃ t, exec (.sub 99) (bench 1 []) = .next t) ∧
    ((benchOf 99 1 []).cfg.memorySize ≤ 99 ∧ ∃ t, exec (.sub 99) (benchOf 99 1 []) = .next t) ∧
    (∃ k t, create k [] = .next t) :=
  ⟨⟨_, rfl⟩, ⟨by decide, _, rfl⟩, ⟨by decide, _, rfl⟩, ⟨{ program := [], negativeFlagStart := true }, _, rfl⟩⟩

theorem witness_HaltFlagIsMonotonic :
    (∃ t, exec .hlt (bench 1 []) = .next t) ∧
    (∃ s t : State, step s = .next t ∧ s.halt = true) ∧ (∃ s : State, s.Inv ∧ s.halt = true) :=
  ⟨⟨_, rfl⟩, ⟨{ bench 0 [] with halt := true }, _, rfl, by decide⟩,
    ⟨{ bench 0 [] with halt := true, run := .halted }, State.inv_of_parts (by decide), by decide⟩⟩

/-- For each clause an instruction that does change the piece of state, and for the run state each way in. -/
theorem witness_EachRegisterHasItsWriters :
    (∃ t, exec (.add 99) (bench 1 [(99, 5)]) = .next t ∧ t.acc ≠ (bench 1 [(99, 5)]).acc) ∧
    (∃ t, exec (.bra 99) (bench 1 []) = .next t ∧ t.pc ≠ (bench 1 []).pc) ∧
    (∃ t, exec (.sub 99) (bench 1 [(99, 5)]) = .next t ∧ t.neg ≠ (bench 1 [(99, 5)]).neg) ∧
    (∃ t, exec .hlt (bench 1 []) = .next t ∧ t.halt ≠ (bench 1 []).halt ∧ t.run ≠ (bench 1 []).run) ∧
    (∃ t, exec (.sta 99) { bench 1 [] with acc := 5 } = .next t ∧ t.mem ≠ (bench 1 []).mem) ∧
    (∃ t, exec .inp { bench 1 [] with input := [7] } = .next t ∧ t.input ≠ [7]) ∧
    (∃ t, exec .out (bench 1 []) = .next t ∧ t.output ≠ (bench 1 []).output) ∧
    (∃ t, exec (.sta 99) (benchOf 99 1 []) = .next t ∧ t.run ≠ (benchOf 99 1 []).run) ∧
    (∃ t, exec .inp (bench 1 []) = .next t ∧ t.run ≠ (bench 1 []).run) ∧
    (∃ t, exec .unmatched900 (strictBench 1 []) = .next t ∧ t.run ≠ (strictBench 1 []).run) :=
  ⟨⟨_, rfl, by decide⟩, ⟨_, rfl, by decide⟩, ⟨_, rfl, by decide⟩, ⟨_, rfl, by decide, by decide⟩,
    ⟨_, rfl, by decide⟩, ⟨_, rfl, by decide⟩, ⟨_, rfl, by decide⟩, ⟨_, rfl, by decide⟩, ⟨_, rfl, by decide⟩,
    ⟨_, rfl, by decide⟩⟩

theorem witness_PolicyMattersOnlyOnUnmatchedCodes :
    (Instr.lda 99).mnemonic ≠ "UNMATCHED" ∧ ∃ t, exec (.lda 99) (bench 1 []) = .next t := ⟨by decide, _, rfl⟩

theorem witness_CellsFrom100OnAreFetchOnly :
    (∃ s t : State, step s = .next t ∧ s.mem.peek 100 = 5) ∧
    (∃ (s t : State) (m : Memory), (Instr.sta 99).wellFormed = true ∧ s.mem.wf ∧ m.wf ∧
      (∀ a ≤ 99, m.peek a = s.mem.peek a) ∧ m ≠ s.mem ∧ exec (.sta 99) s = .next t) :=
  ⟨⟨benchOf 101 0 [(0, 399), (100, 5)], _, rfl, by decide⟩,
    ⟨benchOf 101 1 [(100, 5)], _, [(100, 6)], by decide, by decide, by decide, by decide, by decide, rfl⟩⟩

theorem witness_RunSplitsAtAnyCycle : ∃ t, runFor 1 (bench 0 [(0, 600)]) = .next t := ⟨_, rfl⟩

theorem witness_EnginesAreIndependent :
    (0 : Nat) ≠ 1 ∧ ∃ next, stepEngine 0 [bench 0 [(0, 600)], bench 5 []] = some next := ⟨by decide, _, rfl⟩

/-- One item left for the one cycle, an INP. -/
theorem witness_StepKeepsInputSafety : ∃ s t : State, s.SafeWithInput (0 + 1) ∧ step s = .next t :=
  ⟨{ bench 0 [(0, 901)] with input := [1] }, _,
    ⟨State.inv_of_parts (by decide), fun _ h => (by cases h), by decide, by decide, by decide⟩, rfl⟩

end Sys2Proof.Tests
end

/-! ## Construction: when it answers an engine, and which one (00_scope.md R7, 70_reset_and_hazards.md R190 to R192) -/

namespace Sys2Proof

/-- The parameters for which 00_scope.md R7 names no ConfigurationError. -/
structure Construction.Legal (k : Construction) : Prop where
  modulus_pos : 0 < k.globalModulus
  size_pos : 0 < k.memorySize
  program_fits : (k.program.length : Int) ≤ k.memorySize

theorem Construction.legal_iff (k : Construction) :
    k.Legal ↔ 0 < k.globalModulus ∧ 0 < k.memorySize ∧ (k.program.length : Int) ≤ k.memorySize :=
  ⟨fun ⟨hP, hN, hlen⟩ => ⟨hP, hN, hlen⟩, fun ⟨hP, hN, hlen⟩ => ⟨hP, hN, hlen⟩⟩

theorem Construction.not_legal_iff (k : Construction) :
    ¬ k.Legal ↔ k.globalModulus ≤ 0 ∨ k.memorySize ≤ 0 ∨ k.memorySize < k.program.length := by
  rw [legal_iff]
  omega

namespace Machine

/-- The state of 70_reset_and_hazards.md R190 that construction answers at legal parameters (`create_of_legal`). -/
def createdState (k : Construction) (input : List Int) : State where
  cfg := ⟨k.globalModulus.toNat, k.memorySize.toNat, k.policy⟩
  mem := loadFrom k.globalModulus.toNat 0 k.program []
  acc := normalise k.accumulatorStart k.globalModulus.toNat
  pc := normalise k.programCounterStart k.memorySize.toNat
  neg := k.negativeFlagStart
  halt := false
  run := .running
  input := input
  output := []

theorem create_of_legal {k : Construction} (hk : k.Legal) (input : List Int) :
    create k input = .next (createdState k input) := by
  obtain ⟨hP, hN, hlen⟩ := hk
  have hpos : ¬ (k.globalModulus ≤ 0 ∨ k.memorySize ≤ 0) := by omega
  have hfits : ¬ k.memorySize < k.program.length := by omega
  unfold create
  rw [if_neg hpos, if_neg hfits]
  rfl

theorem create_of_not_legal {k : Construction} (hk : ¬ k.Legal) (input : List Int) :
    create k input = .fault .configuration := by
  unfold create
  by_cases hpos : k.globalModulus ≤ 0 ∨ k.memorySize ≤ 0
  · rw [if_pos hpos]
  · have hlong : k.memorySize < k.program.length := by
      have := k.not_legal_iff.mp hk
      omega
    rw [if_neg hpos, if_pos hlong]

theorem create_eq_configuration_iff (k : Construction) (input : List Int) :
    create k input = .fault .configuration ↔ ¬ k.Legal := by
  by_cases hk : k.Legal
  · simp [create_of_legal hk, hk]
  · simp [create_of_not_legal hk, hk]

/-- The inversion of `create`: an engine comes from legal parameters only, and its state is determined by them. -/
theorem create_eq_next_iff (k : Construction) (input : List Int) (t : State) :
    create k input = .next t ↔ k.Legal ∧ t = createdState k input := by
  by_cases hk : k.Legal
  · simp [create_of_legal hk, hk, eq_comm]
  · simp [create_of_not_legal hk, hk]

theorem exists_create_eq_next_iff (k : Construction) (input : List Int) :
    (∃ t, create k input = .next t) ↔ k.Legal := by
  simp [create_eq_next_iff]

/-- Settles O5: the two checks of `create` are together the failure of `Construction.Legal`, and each outcome of `create` is
equivalent to one side of it. -/
theorem badConfigurationMakesNoEngine : Obligations.BadConfigurationMakesNoEngine := by
  intro k input
  constructor
  · rw [create_eq_configuration_iff, k.not_legal_iff]
  · rw [exists_create_eq_next_iff, k.legal_iff]

end Machine

end Sys2Proof

/-! ## The modular cell: a write stores the true remainder (10_state.md R20, R21) -/

namespace Sys2Proof

/-- A normalised value, seen as an integer, is the mathematical remainder (00_scope.md R11). -/
theorem intCast_normalise (r : Int) {m : Nat} (hm : 0 < m) : (normalise r m : Int) = r % m :=
  Int.toNat_of_nonneg (Int.emod_nonneg r (by omega))

theorem dvd_sub_normalise (r : Int) {m : Nat} (hm : 0 < m) : (m : Int) ∣ r - (normalise r m : Int) := by
  rw [intCast_normalise r hm]
  exact Int.dvd_self_sub_emod

theorem ModularCell.equalsInt_iff (c : ModularCell) (k : Int) : c.equalsInt k = true ↔ (c.read : Int) = k :=
  decide_eq_true_iff

theorem ModularCell.lessThanInt_iff (c : ModularCell) (k : Int) : c.lessThanInt k = true ↔ (c.read : Int) < k :=
  decide_eq_true_iff

theorem ModularCell.construct_of_nonpos (raw : Int) {modulus : Int} (h : modulus ≤ 0) :
    ModularCell.construct raw modulus = .error .configuration :=
  if_pos h

theorem ModularCell.construct_of_pos (raw : Int) {modulus : Int} (h : 0 < modulus) :
    ModularCell.construct raw modulus = .ok ⟨normalise raw modulus.toNat, modulus.toNat⟩ :=
  if_neg (by omega)

namespace Machine

/-- Settles O1: a write is a normalisation, whose bound and divisibility are those of the remainder; in an engine each slot is such
a cell, and its range is a field of the invariant. -/
theorem cellWriteStoresTrueRemainder : Obligations.CellWriteStoresTrueRemainder := by
  constructor
  · intro c r hm
    exact ⟨normalise_lt r hm, dvd_sub_normalise r hm, c.assign_modulus r, c.addInPlace_modulus r,
      c.subtractInPlace_modulus r⟩
  · intro s hs
    exact ⟨hs.acc_lt, s.accCell_modulus, hs.pc_lt, s.pcCell_modulus, fun a => ⟨hs.peek_lt a, s.memCell_modulus a⟩⟩

/-- Settles O2: every cell operation answers a normalisation, which is the remainder modulo the cell's modulus; construction
fails exactly at a modulus that is not positive. -/
theorem cellOperationsAreModular : Obligations.CellOperationsAreModular := by
  refine ⟨?operations, fun raw _ h => ModularCell.construct_of_nonpos raw h, ?construction⟩
  case operations =>
    intro c k hm
    exact ⟨intCast_normalise k hm, intCast_normalise (c.value + k) hm, intCast_normalise (c.value - k) hm, rfl, rfl,
      c.equalsInt_iff k, c.lessThanInt_iff k⟩
  case construction =>
    intro raw modulus h
    have hcast : (modulus.toNat : Int) = modulus := Int.toNat_of_nonneg h.le
    refine ⟨_, ModularCell.construct_of_pos raw h, hcast, ?_⟩
    rw [intCast_normalise raw (by omega), hcast]

/-! ## The execute phase as a function of the state (40_cycle.md R94) -/

/-- The state in which a data access at address `x` leaves the engine, `t` being its result if `x` lies in the bank (20_memory.md
R58). -/
def dataAccess (s : State) (x : Nat) (t : State) : State :=
  if x < s.cfg.memorySize then t else s.raise (.outOfBounds x)

/-- The state after an unmatched code (45_halt_unmatched.md R152). -/
def unmatchedState (code : Nat) (s : State) : State :=
  if s.cfg.policy = .strict then s.raise (.decode code) else s

/-- The state after an input request (44_io.md R140). -/
def inputState (s : State) : State :=
  match s.input with
  | [] => s.raise .inputExhausted
  | r :: rest => { s with acc := normalise r s.cfg.globalModulus, input := rest }

/-- The one state that the execute phase of an instruction answers (`exec_eq_next`). -/
def execState (i : Instr) (s : State) : State :=
  match i with
  | .hlt => s.haltNow
  | .add x => dataAccess s x { s with acc := normalise (s.acc + s.mem.peek x) s.cfg.globalModulus }
  | .sub x => dataAccess s x
      { s with acc := normalise (s.acc - s.mem.peek x) s.cfg.globalModulus, neg := negOfDifference s.acc (s.mem.peek x) }
  | .sta x => dataAccess s x { s with mem := s.mem.put x (normalise s.acc s.cfg.globalModulus) }
  | .lda x => dataAccess s x { s with acc := normalise (s.mem.peek x) s.cfg.globalModulus }
  | .bra x => branchTo s x
  | .brz x => if s.acc = 0 then branchTo s x else s
  | .brp x => if s.neg = false then branchTo s x else s
  | .inp => inputState s
  | .out => s.emit s.acc
  | .unmatched4xx code => unmatchedState code s
  | .unmatched900 => unmatchedState 900 s
  | .unmatched9xx code => unmatchedState code s
  | .unmatchedAbove999 code => unmatchedState code s

theorem dataAccess_of_lt {s : State} {x : Nat} (h : x < s.cfg.memorySize) (t : State) : dataAccess s x t = t :=
  if_pos h

theorem dataAccess_of_ge {s : State} {x : Nat} (h : s.cfg.memorySize ≤ x) (t : State) :
    dataAccess s x t = s.raise (.outOfBounds x) :=
  if_neg h.not_gt

theorem unmatchedCycle_eq_next (code : Nat) (s : State) : unmatchedCycle code s = .next (unmatchedState code s) := by
  unfold unmatchedCycle unmatchedState
  cases s.cfg.policy <;> rfl

theorem execInp_eq_next (s : State) : execInp s = .next (inputState s) := by
  unfold execInp State.inResponse inputState
  cases hin : s.input <;> simp [finish, State.consume, State.putAcc, hin]

/-- Every execute phase answers a next state, an error being one (60_exceptions.md R162). -/
theorem exec_eq_next (i : Instr) (s : State) : exec i s = .next (execState i s) := by
  cases i with
  | hlt | bra | out => rfl
  | add x | sub x | sta x | lda x =>
    rcases Nat.lt_or_ge x s.cfg.memorySize with hx | hx
    · simp only [execState, dataAccess_of_lt hx, exec, execAdd, execSub, execSta, execLda, readOperand_eq, writeOperand_eq,
        if_pos hx]
      rfl
    · simp only [execState, dataAccess_of_ge hx, exec, execAdd, execSub, execSta, execLda, readOperand_eq, writeOperand_eq,
        if_neg hx.not_gt]
      rfl
  | brz x => by_cases hacc : s.acc = 0 <;> simp [exec, execBrz, execState, hacc]
  | brp x => rfl
  | inp => exact execInp_eq_next s
  | unmatched4xx code | unmatched900 | unmatched9xx code | unmatchedAbove999 code => exact unmatchedCycle_eq_next _ s

/-- The inversion of `exec`. -/
theorem exec_eq_next_iff (i : Instr) (s t : State) : exec i s = .next t ↔ t = execState i s := by
  rw [exec_eq_next, Host.Outcome.next.injEq, eq_comm]

/-! ## The two flags as an input of the execute phase (10_state.md R25, R26) -/

theorem dataAccess_with_flags (s t : State) (x : Nat) (n h : Bool) :
    dataAccess { s with neg := n, halt := h } x { t with neg := n, halt := h } =
      { dataAccess s x t with neg := n, halt := h } := by
  unfold dataAccess
  split <;> rfl

theorem unmatchedState_with_flags (code : Nat) (s : State) (n h : Bool) :
    unmatchedState code { s with neg := n, halt := h } = { unmatchedState code s with neg := n, halt := h } := by
  unfold unmatchedState
  split <;> rfl

theorem inputState_with_flags (s : State) (n h : Bool) :
    inputState { s with neg := n, halt := h } = { inputState s with neg := n, halt := h } := by
  cases hin : s.input <;> simp [inputState, hin, State.raise]

/-- Every instruction but SUB and BRP reads neither flag: other values of them before are carried to the state after, but for the
halt flag that HLT sets. -/
theorem execState_with_flags {i : Instr} (hsub : ∀ x, i ≠ .sub x) (hbrp : ∀ x, i ≠ .brp x) (s : State) (n h : Bool) :
    execState i { s with neg := n, halt := h } = { execState i s with neg := n, halt := h || decide (i = .hlt) } := by
  cases i with
  | sub x => exact absurd rfl (hsub x)
  | brp x => exact absurd rfl (hbrp x)
  | hlt => simp [execState, State.haltNow]
  | add x | sta x | lda x => simp [execState, ← dataAccess_with_flags]
  | bra x => simp [execState]
  | brz x =>
    simp only [execState]
    split <;> simp
  | inp => simp [execState, inputState_with_flags]
  | out => simp [execState, State.emit]
  | unmatched4xx code | unmatched900 | unmatched9xx code | unmatchedAbove999 code =>
    simp [execState, unmatchedState_with_flags]

theorem execState_sub_of_lt {s : State} {x : Nat} (h : x < s.cfg.memorySize) :
    execState (.sub x) s =
      { s with acc := normalise (s.acc - s.mem.peek x) s.cfg.globalModulus, neg := negOfDifference s.acc (s.mem.peek x) } :=
  dataAccess_of_lt h _

theorem execState_sub_of_ge {s : State} {x : Nat} (h : s.cfg.memorySize ≤ x) :
    execState (.sub x) s = s.raise (.outOfBounds x) :=
  dataAccess_of_ge h _

theorem execState_brp_of_clear {s : State} (h : s.neg = false) (x : Nat) : execState (.brp x) s = branchTo s x :=
  if_pos h

theorem execState_brp_of_set {s : State} (h : s.neg = true) (x : Nat) : execState (.brp x) s = s :=
  if_neg (by simp [h])

/-- BRP reads the negative flag and keeps it; for every other instruction but SUB this is `execState_with_flags` at the flags' own
values. -/
theorem execState_neg {i : Instr} (hsub : ∀ x, i ≠ .sub x) (s : State) : (execState i s).neg = s.neg := by
  by_cases hbrp : ∃ x, i = .brp x
  · obtain ⟨x, rfl⟩ := hbrp
    cases hneg : s.neg
    · simp [execState_brp_of_clear, hneg]
    · simp [execState_brp_of_set, hneg]
  · have hself := execState_with_flags hsub (not_exists.mp hbrp) s s.neg s.halt
    exact (congrArg State.neg hself :)

/-! ## The halt flag (10_state.md R26) -/

/-- No instruction reads the halt flag: another value of it before gives the same state but for the flag, which HLT sets and every
other instruction keeps. -/
theorem execState_with_halt (i : Instr) (s : State) (b : Bool) :
    execState i { s with halt := b } = { execState i s with halt := b || decide (i = .hlt) } := by
  by_cases hsub : ∃ x, i = .sub x
  · obtain ⟨x, rfl⟩ := hsub
    rcases Nat.lt_or_ge x s.cfg.memorySize with hx | hx
    · simp [execState_sub_of_lt, hx]
    · simp [execState_sub_of_ge, hx, State.raise]
  by_cases hbrp : ∃ x, i = .brp x
  · obtain ⟨x, rfl⟩ := hbrp
    cases hneg : s.neg
    · simp [execState_brp_of_clear, hneg]
    · simp [execState_brp_of_set, hneg]
  have hflags := execState_with_flags (not_exists.mp hsub) (not_exists.mp hbrp) s s.neg b
  simpa only [execState_neg (not_exists.mp hsub)] using hflags

theorem execState_halt (i : Instr) (s : State) : (execState i s).halt = (s.halt || decide (i = .hlt)) := by
  have hself := execState_with_halt i s s.halt
  exact (congrArg State.halt hself :)

theorem step_halt_of_halt {s t : State} (h : step s = .next t) (hs : s.halt = true) : t.halt = true := by
  obtain ⟨-, ⟨-, hexec⟩ | ⟨-, rfl⟩⟩ := step_next h
  · rw [exec_eq_next_iff] at hexec
    simp [hexec, execState_halt, hs]
  · exact hs

theorem step_ne_next_of_not_running {s : State} (h : s.run ≠ .running) (t : State) : step s ≠ .next t :=
  fun hstep => h (step_next hstep).1

theorem cyclesFor_of_not_running {s : State} (h : s.run ≠ .running) (k : Nat) : cyclesFor k s = 0 := by
  cases k with
  | zero => rfl
  | succ k =>
    unfold cyclesFor
    split
    · contradiction
    · rfl
    · rfl

theorem State.Inv.not_running_of_halt {s : State} (h : s.Inv) (hs : s.halt = true) : s.run ≠ .running := by
  simp [h.halt_iff.mpr hs]

/-- Settles O46: what an instruction does to the flag is `execState_with_halt`; a flag that is true means HALTED under the
invariant, and an ended engine runs no cycle. -/
theorem haltFlagIsMonotonic : Obligations.HaltFlagIsMonotonic := by
  refine ⟨?write, fun _ _ => step_halt_of_halt, ?ended, ?read⟩
  case write =>
    intro i s t h
    rw [(exec_eq_next_iff i s t).mp h, execState_halt]
  case ended =>
    intro s hinv hs
    have hr := hinv.not_running_of_halt hs
    exact ⟨step_ne_next_of_not_running hr, cyclesFor_of_not_running hr⟩
  case read =>
    intro i s t b h
    rw [exec_eq_next, (exec_eq_next_iff i s t).mp h, execState_with_halt]

/-! ## The negative flag (10_state.md R25) -/

/-- No instruction but SUB and BRP reads or writes the negative flag: another value of it before is carried to the state after. -/
theorem execState_with_neg {i : Instr} (hsub : ∀ x, i ≠ .sub x) (hbrp : ∀ x, i ≠ .brp x) (s : State) (b : Bool) :
    execState i { s with neg := b } = { execState i s with neg := b } := by
  have hflags := execState_with_flags hsub hbrp s b s.halt
  simpa only [execState_halt] using hflags

/-- Settles O45: `execState_neg` and `execState_with_neg` for the instructions that are not SUB; SUB by its two cases, of which the one
in the bank overwrites the flag unread; the start value from the state that construction answers. -/
theorem negIsWrittenBySubAndReadByBrp : Obligations.NegIsWrittenBySubAndReadByBrp := by
  refine ⟨?frame, ?written, ?overwritten, ?raised, ?unread, ?start⟩
  case frame =>
    intro i s t h hsub
    rw [(exec_eq_next_iff i s t).mp h, execState_neg hsub]
  case written =>
    intro x s t hx h
    rw [(exec_eq_next_iff _ s t).mp h, execState_sub_of_lt hx]
    rfl
  case overwritten =>
    intro x s b hx
    simp only [exec_eq_next, execState_sub_of_lt, hx]
  case raised =>
    intro x s t hx h
    rw [(exec_eq_next_iff _ s t).mp h, execState_sub_of_ge hx, State.raise_neg]
  case unread =>
    intro i s t b hsub hbrp h
    rw [exec_eq_next, (exec_eq_next_iff i s t).mp h, execState_with_neg hsub hbrp]
  case start =>
    intro k input t h
    obtain ⟨-, rfl⟩ := (create_eq_next_iff k input t).mp h
    rfl

end Machine

end Sys2Proof

/-! ## Decode is the inverse of encode (30_encoding.md R74, R83) -/

namespace Sys2Proof

theorem decode_eq_hlt_iff (c : Nat) : decode c = .hlt ↔ c < 100 := by
  rcases decode_cases c with ⟨hc, h⟩ | ⟨hc, -, h⟩ | ⟨hc, -, h⟩ | ⟨hc, -, h⟩ | ⟨hc, -, h⟩ | ⟨hc, -, h⟩ | ⟨hc, -, h⟩ |
    ⟨hc, -, h⟩ | ⟨hc, -, h⟩ | ⟨hc, h⟩ | ⟨hc, h⟩ | ⟨hc, h⟩ | ⟨hc, -, h⟩ | ⟨hc, h⟩ <;>
  · simp only [h, reduceCtorEq, true_iff, false_iff]
    omega

/-- The code of a well-formed instruction lies in its own row's range, so of the ranges of `decode_cases` that row alone is left, and
the row gives the operand back. -/
theorem decode_encode {i : Instr} (hi : i.wellFormed = true) : decode (encode i) = i := by
  have hrow := decode_cases (encode i)
  cases i with
  | hlt | inp | out | unmatched900 => rfl
  | add x | sub x | sta x | lda x | bra x | brz x | brp x =>
    have hx : x ≤ 99 := of_decide_eq_true hi
    simp only [encode] at hrow ⊢
    grind
  | unmatched4xx c | unmatched9xx c | unmatchedAbove999 c =>
    have hrange := of_decide_eq_true hi
    simp only [encode] at hrow ⊢
    grind

/-- Settles O12: the round trip is `decode_encode`, the written codes are the equations of `encode`, and the codes of HLT are
`decode_eq_hlt_iff`. -/
theorem decodeOfEncodeIsTheInstruction : Obligations.DecodeOfEncodeIsTheInstruction := by
  refine ⟨fun _ hi => decode_encode hi, ?addressCodes, rfl, rfl, rfl, decode_eq_hlt_iff⟩
  case addressCodes =>
    intro a _
    exact ⟨rfl, rfl, rfl, rfl, rfl, rfl, rfl⟩

end Sys2Proof

/-! ## The rule table: disjoint rules, dispatched alike in any order (30_encoding.md R75) -/

namespace Sys2Proof.Machine

/-- A rule of the table matches exactly the codes whose instruction carries the rule's name. -/
theorem rule_matches_iff_mnemonic {r : InstructionRule} (hr : r ∈ instructionTable) (c : Nat) :
    r.predicate c = true ↔ (decode c).mnemonic = r.name := by
  revert r
  simp only [instructionTable, List.forall_mem_cons, InstructionRule.hundred_matches, InstructionRule.hundred_name,
    InstructionRule.literal_matches, InstructionRule.literal_name, decide_eq_true_iff]
  rcases decode_cases c with ⟨hc, h⟩ | ⟨hc, hc', h⟩ | ⟨hc, hc', h⟩ | ⟨hc, hc', h⟩ | ⟨hc, hc', h⟩ | ⟨hc, hc', h⟩ |
    ⟨hc, hc', h⟩ | ⟨hc, hc', h⟩ | ⟨hc, hc', h⟩ | ⟨hc, h⟩ | ⟨hc, h⟩ | ⟨hc, h⟩ | ⟨hc, hc', h⟩ | ⟨hc, h⟩ <;>
  · simp [h, Instr.mnemonic]
    omega

theorem ruleNames_nodup : (instructionTable.map InstructionRule.name).Nodup := by decide

/-- Two rules do not both match the code (30_encoding.md R75). -/
def InstructionRule.DisjointAt (c : Nat) (r q : InstructionRule) : Prop :=
  ¬ (r.predicate c = true ∧ q.predicate c = true)

theorem InstructionRule.DisjointAt.symm {c : Nat} {r q : InstructionRule} (h : r.DisjointAt c q) : q.DisjointAt c r :=
  fun hboth => h hboth.symm

/-- Two rules that matched one code would both be named by its mnemonic, and the names of the table are distinct. -/
theorem instructionTable_disjointAt (c : Nat) : instructionTable.Pairwise (InstructionRule.DisjointAt c) := by
  have hnames := List.pairwise_map.mp ruleNames_nodup
  refine hnames.imp_of_mem fun {r q} hr hq hne ⟨hrc, hqc⟩ => hne ?_
  calc
    r.name = (decode c).mnemonic := ((rule_matches_iff_mnemonic hr c).mp hrc).symm
    _ = q.name := (rule_matches_iff_mnemonic hq c).mp hqc

/-- Among rules of which no two match the code, the first match is the only one: two neighbours may change places. -/
theorem dispatch_perm {table table' : List InstructionRule} {c : Nat} (hperm : table.Perm table')
    (hdis : table.Pairwise (InstructionRule.DisjointAt c)) (s : State) : dispatch table c s = dispatch table' c s := by
  induction hperm with
  | nil => rfl
  | cons r _ ih => rw [dispatch_cons, dispatch_cons, ih hdis.of_cons]
  | swap r q rest =>
    have hqr : q.DisjointAt c r := List.rel_of_pairwise_cons hdis List.mem_cons_self
    by_cases hq : q.predicate c = true
    · have hr : ¬ r.predicate c = true := fun hr => hqr ⟨hq, hr⟩
      simp [dispatch_cons, hq, hr]
    · simp [dispatch_cons, hq]
  | trans hfirst _ ihfirst ihsecond =>
    exact (ihfirst hdis).trans (ihsecond (hdis.perm hfirst .symm))

/-- Settles O16: the disjointness from the rules' distinct names, and the order from the disjointness. -/
theorem rulesAreDisjointInAnyOrder : Obligations.RulesAreDisjointInAnyOrder := by
  refine ⟨instructionTable_disjointAt, fun _ c s hperm => ?_⟩
  exact (dispatch_perm hperm.symm (instructionTable_disjointAt c) s).symm

end Sys2Proof.Machine

/-! ## The rule table and the decoder with `exec` are one machine (40_cycle.md R94) -/

namespace Sys2Proof.Machine

theorem InstructionRule.attempt_of_match {r : InstructionRule} {c : Nat} (h : r.predicate c = true) (s : State) :
    r.attempt c s = some (r.effect c s) :=
  if_pos h

theorem InstructionRule.attempt_of_no_match {r : InstructionRule} {c : Nat} (h : r.predicate c = false) (s : State) :
    r.attempt c s = none :=
  if_neg (Bool.eq_false_iff.mp h)

/-- Rules that do not match the code may be left out in front. -/
theorem dispatch_append_of_no_match {before : List InstructionRule} {c : Nat}
    (h : ∀ q ∈ before, q.predicate c = false) (rest : List InstructionRule) (s : State) :
    dispatch (before ++ rest) c s = dispatch rest c s := by
  induction before with
  | nil => rfl
  | cons q before ih =>
    obtain ⟨hq, hbefore⟩ := List.forall_mem_cons.mp h
    rw [List.cons_append, dispatch_cons, if_neg (Bool.eq_false_iff.mp hq), ih hbefore]

theorem dispatch_of_first_match {before : List InstructionRule} {r : InstructionRule} {c : Nat}
    (hbefore : ∀ q ∈ before, q.predicate c = false) (hr : r.predicate c = true) (rest : List InstructionRule) (s : State) :
    dispatch (before ++ r :: rest) c s = r.effect c s := by
  rw [dispatch_append_of_no_match hbefore, dispatch_cons, if_pos hr]

theorem dispatch_of_no_match {table : List InstructionRule} {c : Nat} (h : ∀ q ∈ table, q.predicate c = false)
    (s : State) : dispatch table c s = unmatchedCycle c s := by
  simpa [dispatch] using dispatch_append_of_no_match h [] s

/-- All that dispatching a code can do: a matching rule's effect, or the unmatched policy if no rule matches. -/
theorem dispatch_cases (table : List InstructionRule) (c : Nat) (s : State) :
    (∃ r ∈ table, r.predicate c = true ∧ dispatch table c s = r.effect c s) ∨
    ((∀ q ∈ table, q.predicate c = false) ∧ dispatch table c s = unmatchedCycle c s) := by
  cases hfind : table.find? (·.predicate c) with
  | none =>
    have hnone : ∀ q ∈ table, q.predicate c = false := by simpa using hfind
    exact .inr ⟨hnone, dispatch_of_no_match hnone s⟩
  | some r =>
    obtain ⟨hr, before, rest, rfl, hbefore⟩ := List.find?_eq_some_iff_append.mp hfind
    exact .inl ⟨r, by simp, hr, dispatch_of_first_match (by simpa using hbefore) hr rest s⟩

/-- The rule does to every code it matches what executing the decoded instruction does. -/
def InstructionRule.Sound (r : InstructionRule) : Prop :=
  ∀ (c : Nat) (s : State), r.predicate c = true → r.effect c s = exec (decode c) s

/-- A code of the rule's hundred is the encoding of the rule's instruction at the code's address field, so it decodes to that
instruction. -/
theorem InstructionRule.Sound.hundred {name : String} {digit : Nat}
    {effect : Nat → State → Host.Outcome State Fault Refusal} (op : Nat → Instr)
    (hwf : ∀ x ≤ 99, (op x).wellFormed = true := by exact fun _ => decide_eq_true)
    (hcode : ∀ x, encode (op x) = 100 * digit + x := by exact fun _ => rfl)
    (hexec : ∀ x s, exec (op x) s = effect x s := by exact fun _ _ => rfl) :
    (InstructionRule.hundred name digit effect).Sound := by
  intro c s hc
  have hdigit : c / 100 = digit := (hundred_matches name digit effect c).mp hc
  have hencode : encode (op (c % 100)) = c := by
    rw [hcode]
    omega
  have hdecode : decode c = op (c % 100) :=
    calc
      decode c = decode (encode (op (c % 100))) := by rw [hencode]
      _ = op (c % 100) := decode_encode (hwf _ (by omega))
  rw [hundred_effect, hdecode, hexec]

theorem InstructionRule.Sound.literal {name : String} {value : Nat}
    {effect : State → Host.Outcome State Fault Refusal} (hexec : ∀ s, exec (decode value) s = effect s) :
    (InstructionRule.literal name value effect).Sound := by
  intro c s hc
  obtain rfl := (literal_matches name value effect c).mp hc
  rw [literal_effect, hexec]

theorem instructionTable_sound : ∀ r ∈ instructionTable, r.Sound := by
  simp only [instructionTable, List.forall_mem_cons]
  refine ⟨.hundred .add, .hundred .sub, .hundred .sta, .hundred .lda, .hundred .bra,
    .hundred .brz, .hundred .brp, .literal fun _ => rfl, .literal fun _ => rfl, ?hlt, by simp⟩
  case hlt =>
    intro c s hc
    rw [(decode_eq_hlt_iff c).mpr (of_decide_eq_true hc)]
    rfl

/-- The codes that no rule matches are those of 30_encoding.md R80. -/
theorem unmatchedCode_of_no_match {c : Nat} (h : ∀ q ∈ instructionTable, q.predicate c = false) : unmatchedCode c := by
  simp only [instructionTable, List.forall_mem_cons, Bool.eq_false_iff, ne_eq, InstructionRule.hundred_matches,
    InstructionRule.literal_matches, decide_eq_true_iff] at h
  unfold unmatchedCode
  omega

theorem exec_decode_of_unmatchedCode {c : Nat} (h : unmatchedCode c) (s : State) :
    exec (decode c) s = unmatchedCycle c s := by
  rcases h with h | rfl | h
  · rw [show decode c = .unmatched4xx c from decode_encode (i := .unmatched4xx c) (decide_eq_true h)]
    rfl
  · rfl
  · rcases Nat.lt_or_ge c 1000 with hc | hc
    · rw [show decode c = .unmatched9xx c from decode_encode (i := .unmatched9xx c) (decide_eq_true (by omega))]
      rfl
    · rw [show decode c = .unmatchedAbove999 c from decode_encode (i := .unmatchedAbove999 c) (decide_eq_true hc)]
      rfl

theorem dispatch_instructionTable (c : Nat) (s : State) : dispatch instructionTable c s = exec (decode c) s := by
  rcases dispatch_cases instructionTable c s with ⟨r, hr, hmatch, heffect⟩ | ⟨hnone, hpolicy⟩
  · rw [heffect, instructionTable_sound r hr c s hmatch]
  · rw [hpolicy, exec_decode_of_unmatchedCode (unmatchedCode_of_no_match hnone)]

/-- Settles O17: the table's names and the codes they stand for; an attempt by whether the rule matches; dispatch by its first match;
and the equivalence because each rule is sound and the codes without a rule are the unmatched ones. -/
theorem dispatcherExecutesTheDecodedInstruction : Obligations.DispatcherExecutesTheDecodedInstruction :=
  ⟨rfl, fun _ hr => rule_matches_iff_mnemonic hr,
    fun _ _ s => ⟨fun h => InstructionRule.attempt_of_match h s, fun h => InstructionRule.attempt_of_no_match h s⟩,
    fun _ rest _ _ s hbefore hr => dispatch_of_first_match hbefore hr rest s,
    fun _ _ s h => dispatch_of_no_match h s, dispatch_instructionTable⟩

end Sys2Proof.Machine

/-! ## ADD and SUB: the wrapped results, the borrow, and the stop outside the bank (41_arithmetic.md R110, R112) -/

namespace Sys2Proof

/-- A code in the hundred codes of an instruction with an address is the encoding of that instruction at the code's last two digits
(30_encoding.md R72), so it decodes to it. -/
theorem decode_of_hundred (op : Nat → Instr) {base c : Nat} (hwf : ∀ x ≤ 99, (op x).wellFormed = true)
    (hcode : ∀ x, encode (op x) = base + x) (hbase : 100 ∣ base) (hlow : base ≤ c) (hhigh : c ≤ base + 99) :
    decode c = op (c % 100) := by
  have hencode : encode (op (c % 100)) = c := by
    rw [hcode]
    omega
  calc
    decode c = decode (encode (op (c % 100))) := by rw [hencode]
    _ = op (c % 100) := decode_encode (hwf _ (by omega))

theorem decode_eq_add {c : Nat} (hlow : 100 ≤ c) (hhigh : c ≤ 199) : decode c = .add (c % 100) :=
  decode_of_hundred .add (fun _ => decide_eq_true) (fun _ => rfl) (by decide) hlow hhigh

theorem decode_eq_sub {c : Nat} (hlow : 200 ≤ c) (hhigh : c ≤ 299) : decode c = .sub (c % 100) :=
  decode_of_hundred .sub (fun _ => decide_eq_true) (fun _ => rfl) (by decide) hlow hhigh

namespace Machine

theorem execState_add_of_lt {s : State} {x : Nat} (h : x < s.cfg.memorySize) :
    execState (.add x) s = { s with acc := (s.acc + s.mem.peek x) % s.cfg.globalModulus } := by
  rw [← normalise_natCast_add]
  exact dataAccess_of_lt h _

theorem execState_add_of_ge {s : State} {x : Nat} (h : s.cfg.memorySize ≤ x) :
    execState (.add x) s = s.raise (.outOfBounds x) :=
  dataAccess_of_ge h _

/-- The accumulator and the cell are both in `[0, P)`, so the difference wraps at most once. -/
theorem State.Inv.execState_sub_of_lt {s : State} (hs : s.Inv) {x : Nat} (h : x < s.cfg.memorySize) :
    execState (.sub x) s = { s with
      neg := decide (s.acc < s.mem.peek x)
      acc := if s.acc < s.mem.peek x then s.acc + s.cfg.globalModulus - s.mem.peek x
        else s.acc - s.mem.peek x } := by
  rw [Machine.execState_sub_of_lt h, normalise_sub hs.acc_lt (hs.peek_lt x), negOfDifference_eq]

/-- Settles O24: the codes by `decode_eq_add`, and the execute phase by whether the address lies in the bank. -/
theorem addStoresTheWrappedSum : Obligations.AddStoresTheWrappedSum := by
  refine ⟨fun _ => decode_eq_add, ?inBank, ?outOfBank⟩
  case inBank =>
    intro x s hx
    rw [exec_eq_next, execState_add_of_lt hx]
  case outOfBank =>
    intro x s hx
    rw [exec_eq_next, execState_add_of_ge hx, State.raise]

/-- Settles O25: the codes by `decode_eq_sub`, and the execute phase by whether the address lies in the bank, where the invariant
bounds both operands. -/
theorem subSetsNegAndStoresTheWrappedDifference : Obligations.SubSetsNegAndStoresTheWrappedDifference := by
  refine ⟨fun _ => decode_eq_sub, ?inBank, ?outOfBank⟩
  case inBank =>
    intro x s hs hx
    rw [exec_eq_next, hs.execState_sub_of_lt hx]
  case outOfBank =>
    intro x s hx
    rw [exec_eq_next, execState_sub_of_ge hx, State.raise]

end Machine

end Sys2Proof

/-! ## STA and LDA: the stored cell, the loaded accumulator, and the stop outside the bank (42_transfer.md R120, R122, R124) -/

namespace Sys2Proof

theorem normalise_natCast_of_lt {n m : Nat} (h : n < m) : normalise (n : Int) m = n := by
  rw [normalise_natCast, Nat.mod_eq_of_lt h]

theorem decode_eq_sta {c : Nat} (hlow : 300 ≤ c) (hhigh : c ≤ 399) : decode c = .sta (c % 100) :=
  decode_of_hundred .sta (fun _ => decide_eq_true) (fun _ => rfl) (by decide) hlow hhigh

theorem decode_eq_lda {c : Nat} (hlow : 500 ≤ c) (hhigh : c ≤ 599) : decode c = .lda (c % 100) :=
  decode_of_hundred .lda (fun _ => decide_eq_true) (fun _ => rfl) (by decide) hlow hhigh

namespace Machine

/-- The accumulator is in `[0, P)`, so the cell takes it as it is. -/
theorem State.Inv.execState_sta_of_lt {s : State} (hs : s.Inv) {x : Nat} (h : x < s.cfg.memorySize) :
    execState (.sta x) s = { s with mem := s.mem.put x s.acc } := by
  rw [execState, dataAccess_of_lt h, normalise_natCast_of_lt hs.acc_lt]

theorem execState_sta_of_ge {s : State} {x : Nat} (h : s.cfg.memorySize ≤ x) :
    execState (.sta x) s = s.raise (.outOfBounds x) :=
  dataAccess_of_ge h _

/-- The cell is in `[0, P)`, so the accumulator takes it as it is. -/
theorem State.Inv.execState_lda_of_lt {s : State} (hs : s.Inv) {x : Nat} (h : x < s.cfg.memorySize) :
    execState (.lda x) s = { s with acc := s.mem.peek x } := by
  rw [execState, dataAccess_of_lt h, normalise_natCast_of_lt (hs.peek_lt x)]

theorem execState_lda_of_ge {s : State} {x : Nat} (h : s.cfg.memorySize ≤ x) :
    execState (.lda x) s = s.raise (.outOfBounds x) :=
  dataAccess_of_ge h _

/-- Settles O26: the codes by `decode_eq_sta`, and the execute phase by whether the address lies in the bank, where the stored cell
and the others read as `Memory.put` has them. -/
theorem staStoresTheAccumulator : Obligations.StaStoresTheAccumulator := by
  refine ⟨fun _ => decode_eq_sta, ?inBank, ?outOfBank⟩
  case inBank =>
    intro x s hs hx
    refine ⟨{ s with mem := s.mem.put x s.acc }, ?_, rfl, Memory.peek_put_self hs.mem_wf x s.acc,
      fun _ ha => Memory.peek_put_other ha s.acc⟩
    rw [exec_eq_next, hs.execState_sta_of_lt hx]
  case outOfBank =>
    intro x s hx
    rw [exec_eq_next, execState_sta_of_ge hx, State.raise]

/-- Settles O27: the codes by `decode_eq_lda`, and the execute phase by whether the address lies in the bank, where the invariant
bounds the cell. -/
theorem ldaLoadsTheCell : Obligations.LdaLoadsTheCell := by
  refine ⟨fun _ => decode_eq_lda, ?inBank, ?outOfBank⟩
  case inBank =>
    intro x s hs hx
    rw [exec_eq_next, hs.execState_lda_of_lt hx]
  case outOfBank =>
    intro x s hx
    rw [exec_eq_next, execState_lda_of_ge hx, State.raise]

/-! ### Two cycles, the second reading what the first has stored -/

theorem State.Inv.advance {s : State} (hs : s.Inv) : s.advance.Inv := by
  rw [State.advance_eq]
  exact { hs with pc_lt := Nat.mod_lt _ hs.size_pos }

theorem State.Inv.store {s : State} (hs : s.Inv) {a v : Nat} (ha : a < s.cfg.memorySize) (hv : v < s.cfg.globalModulus) :
    ({ s with mem := s.mem.put a v } : State).Inv :=
  { hs with
    mem_wf := Memory.put_wf hs.mem_wf a v
    mem_fits := Memory.put_fits hs.mem_fits ha hv }

/-- An engine's program counter lies in the bank, so a cycle is the execute phase of the fetched code, with no stop at the fetch. -/
theorem State.Inv.step_eq_next_iff {s : State} (hs : s.Inv) (t : State) :
    step s = .next t ↔ s.run = .running ∧ t = execState (decode (s.mem.peek s.pc)) s.advance := by
  constructor
  · intro h
    obtain ⟨hrun, ⟨-, hexec⟩ | ⟨hpc, -⟩⟩ := step_next h
    · exact ⟨hrun, (exec_eq_next_iff _ _ t).mp hexec⟩
    · exact absurd hs.pc_lt hpc
  · rintro ⟨hrun, rfl⟩
    simp only [step, hrun, fetch_eq, if_pos hs.pc_lt, exec_eq_next]

theorem runFor_of_not_running {s : State} (h : s.run ≠ .running) (k : Nat) : runFor k s = .next s := by
  cases k with
  | zero => rfl
  | succ k =>
    unfold runFor
    split
    · contradiction
    · rfl
    · rfl

/-- Settles O28: below `N` the state after the store is an engine's, so its LDA completes and reads the stored cell; from `N` on the
STA leaves the engine STOPPED, which runs no cycle. -/
theorem staThenLdaRestoresTheAccumulator : Obligations.StaThenLdaRestoresTheAccumulator := by
  intro s t a hs hsta hstep
  obtain ⟨hrun, ht⟩ := (hs.step_eq_next_iff t).mp hstep
  rw [hsta] at ht
  refine ⟨?inBank, ?outOfBank⟩
  case inBank =>
    intro ha hlda
    rw [hs.advance.execState_sta_of_lt ha] at ht
    have hinv : t.Inv := ht ▸ hs.advance.store ha hs.acc_lt
    have hat : a < t.cfg.memorySize := ht ▸ ha
    have htrun : t.run = .running := ht ▸ hrun
    have hcell : t.mem.peek a = s.acc := ht ▸ Memory.peek_put_self hs.mem_wf a s.acc
    refine ⟨{ t.advance with acc := t.mem.peek a }, ?_, hcell, htrun⟩
    rw [hinv.step_eq_next_iff, hlda, hinv.advance.execState_lda_of_lt hat]
    exact ⟨htrun, rfl⟩
  case outOfBank =>
    intro ha
    rw [execState_sta_of_ge (s := s.advance) ha] at ht
    have hstopped : t.run = .stopped (.outOfBounds a) := by rw [ht, State.raise_run]
    have hended : t.run ≠ .running := by simp [hstopped]
    exact ⟨hstopped, fun k => ⟨runFor_of_not_running hended k, cyclesFor_of_not_running hended k⟩⟩

end Machine

end Sys2Proof

/-! ## HLT and the unmatched codes: the end of a run, and the code as a no-op or a Decode error (45_halt_unmatched.md R150, R152) -/

namespace Sys2Proof

theorem decode_eq_unmatched4xx {c : Nat} (hlow : 400 ≤ c) (hhigh : c ≤ 499) : decode c = .unmatched4xx c :=
  decode_encode (i := .unmatched4xx c) (decide_eq_true ⟨hlow, hhigh⟩)

theorem decode_eq_unmatched9xx {c : Nat} (hlow : 903 ≤ c) (hhigh : c ≤ 999) : decode c = .unmatched9xx c :=
  decode_encode (i := .unmatched9xx c) (decide_eq_true ⟨hlow, hhigh⟩)

theorem decode_eq_unmatchedAbove999 {c : Nat} (hlow : 1000 ≤ c) : decode c = .unmatchedAbove999 c :=
  decode_encode (i := .unmatchedAbove999 c) (decide_eq_true hlow)

namespace Machine

/-- A cell that nothing has written reads as 0 (70_reset_and_hazards.md R191). -/
theorem Memory.peek_nil (a : Nat) : Memory.peek [] a = 0 := rfl

theorem unmatchedState_of_permissive {s : State} (h : s.cfg.policy = .permissive) (code : Nat) :
    unmatchedState code s = s :=
  if_neg (by simp [h])

theorem unmatchedState_of_strict {s : State} (h : s.cfg.policy = .strict) (code : Nat) :
    unmatchedState code s = s.raise (.decode code) :=
  if_pos h

/-- With the program counter in the bank the fetch succeeds, so the cycle is the execute phase of the decoded cell. -/
theorem step_of_pc_lt {s : State} (hrun : s.run = .running) (hpc : s.pc < s.cfg.memorySize) :
    step s = .next (execState (decode (s.mem.peek s.pc)) s.advance) := by
  simp only [step, hrun, fetch_eq, if_pos hpc, exec_eq_next]

theorem step_of_peek_lt_100 {s : State} (hrun : s.run = .running) (hpc : s.pc < s.cfg.memorySize)
    (hcode : s.mem.peek s.pc < 100) : step s = .next s.advance.haltNow := by
  rw [step_of_pc_lt hrun hpc, (decode_eq_hlt_iff _).mpr hcode, execState]

/-- Settles O37: the codes by `decode_eq_hlt_iff`; a run whose first cycle is HLT goes on from a HALTED state, in which no cycle
runs. -/
theorem hltHaltsForGood : Obligations.HltHaltsForGood := by
  refine ⟨fun c => (decode_eq_hlt_iff c).mpr, ?unwritten, exec_eq_next .hlt, ?run⟩
  case unwritten =>
    intro a
    rw [Memory.peek_nil, decode_eq_hlt_iff]
    decide
  case run =>
    intro s hrun hpc hcode k
    have hstep : step s = .next s.advance.haltNow := step_of_peek_lt_100 hrun hpc hcode
    have hended : s.advance.haltNow.run ≠ .running := by simp
    constructor
    · rw [runFor_succ hrun hstep, runFor_of_not_running hended, State.advance_eq, State.haltNow]
    · rw [cyclesFor_succ hrun hstep, cyclesFor_of_not_running hended]

/-- Settles O38: each range of codes by its decode equation, and the four UNMATCHED rows by the one state `unmatchedState` under each
policy. -/
theorem unmatchedCodeIsNoOpOrDecodeError : Obligations.UnmatchedCodeIsNoOpOrDecodeError := by
  refine ⟨fun _ => decode_eq_unmatched4xx, rfl, fun _ => decode_eq_unmatched9xx, fun _ => decode_eq_unmatchedAbove999,
    ?permissive, ?strict⟩
  case permissive =>
    intro code s hpolicy
    simp only [exec_eq_next, execState, unmatchedState_of_permissive hpolicy, and_self]
  case strict =>
    intro code s hpolicy
    simp only [exec_eq_next, execState, unmatchedState_of_strict hpolicy, State.raise, and_self]

end Machine

end Sys2Proof

/-! ## Encode is the inverse of decode, and decode by ranges (30_encoding.md R74, R76, R83) -/

namespace Sys2Proof

theorem wellFormed_decode (c : Nat) : (decode c).wellFormed = true := by
  rcases decode_cases c with ⟨-, h⟩ | ⟨-, -, h⟩ | ⟨-, -, h⟩ | ⟨-, -, h⟩ | ⟨hlow, hhigh, h⟩ | ⟨-, -, h⟩ | ⟨-, -, h⟩ |
    ⟨-, -, h⟩ | ⟨-, -, h⟩ | ⟨-, h⟩ | ⟨-, h⟩ | ⟨-, h⟩ | ⟨hlow, hhigh, h⟩ | ⟨hlow, h⟩ <;>
    simp only [h, Instr.wellFormed, decide_eq_true_eq] <;> omega

theorem encode_decode_of_ge {c : Nat} (hc : 100 ≤ c) : encode (decode c) = c := by
  rcases decode_cases c with ⟨hlow, h⟩ | ⟨hlow, hhigh, h⟩ | ⟨hlow, hhigh, h⟩ | ⟨hlow, hhigh, h⟩ | ⟨-, -, h⟩ |
    ⟨hlow, hhigh, h⟩ | ⟨hlow, hhigh, h⟩ | ⟨hlow, hhigh, h⟩ | ⟨hlow, hhigh, h⟩ | ⟨hcode, h⟩ | ⟨hcode, h⟩ | ⟨hcode, h⟩ |
    ⟨-, -, h⟩ | ⟨-, h⟩ <;>
    simp only [h, encode] <;> omega

/-- Settles O13: the decoded instruction is well-formed in each row, and its encoding gives the code back from 100 on; below, it is
HLT. -/
theorem encodeOfDecodeIsTheCode : Obligations.EncodeOfDecodeIsTheCode := by
  intro c
  refine ⟨wellFormed_decode c, ?_⟩
  split
  · next hc => rw [(decode_eq_hlt_iff c).mpr hc, encode]
  · next hc => exact encode_decode_of_ge (not_lt.mp hc)

/-- An instruction but HLT is what its own code decodes to, and no other code does. -/
theorem decode_eq_iff {i : Instr} (hi : i ≠ .hlt) (c : Nat) : decode c = i ↔ i.wellFormed = true ∧ encode i = c := by
  constructor
  · rintro rfl
    have hc : 100 ≤ c := not_lt.mp (mt (decode_eq_hlt_iff c).mpr hi)
    exact ⟨wellFormed_decode c, encode_decode_of_ge hc⟩
  · rintro ⟨hwf, rfl⟩
    exact decode_encode hwf

/-- The instruction is one of the four for the codes that no rule of the table matches, and carries this code (30_encoding.md R80). -/
def Instr.IsUnmatched (i : Instr) (code : Nat) : Prop :=
  i = .unmatched4xx code ∨ (i = .unmatched900 ∧ code = 900) ∨ i = .unmatched9xx code ∨ i = .unmatchedAbove999 code

theorem Instr.mnemonic_eq_unmatched_iff (i : Instr) : i.mnemonic = "UNMATCHED" ↔ ∃ code, i.IsUnmatched code := by
  cases i <;> simp [Instr.mnemonic, Instr.IsUnmatched]

theorem isUnmatched_decode_iff (c code : Nat) : (decode c).IsUnmatched code ↔ c = code ∧ unmatchedCode code := by
  simp only [Instr.IsUnmatched, decode_eq_iff, ne_eq, reduceCtorEq, not_false_eq_true, Instr.wellFormed, encode,
    decide_eq_true_eq, true_and]
  omega

theorem mnemonic_decode_eq_unmatched_iff (c : Nat) : (decode c).mnemonic = "UNMATCHED" ↔ unmatchedCode c := by
  simp only [Instr.mnemonic_eq_unmatched_iff, isUnmatched_decode_iff, exists_eq_left']

/-! ### The codes below 1000, counted -/

theorem map_range'_eq_replicate {α : Type} {f : Nat → α} {low n : Nat} {x : α} (h : ∀ c, low ≤ c → c < low + n → f c = x) :
    (List.range' low n).map f = List.replicate n x := by
  rw [List.eq_replicate_iff]
  refine ⟨by simp, fun b hb => ?_⟩
  obtain ⟨c, hc, rfl⟩ := List.mem_map.mp hb
  obtain ⟨hlow, hhigh⟩ := List.mem_range'_1.mp hc
  exact h c hlow hhigh

/-- A row of a hundred codes with an address carries one mnemonic. -/
theorem mnemonics_of_hundred (op : Nat → Instr) (base : Nat) (name : String)
    (hwf : ∀ x ≤ 99, (op x).wellFormed = true := by exact fun _ => decide_eq_true)
    (hcode : ∀ x, encode (op x) = base + x := by exact fun _ => rfl)
    (hbase : 100 ∣ base := by decide) (hname : ∀ x, (op x).mnemonic = name := by exact fun _ => rfl) :
    (List.range' base 100).map (fun c => (decode c).mnemonic) = List.replicate 100 name :=
  map_range'_eq_replicate fun c hlow hhigh => by
    rw [decode_of_hundred op hwf hcode hbase hlow (by omega), hname]

theorem mnemonics_of_unmatched {low n : Nat} (h : ∀ c, low ≤ c → c < low + n → unmatchedCode c) :
    (List.range' low n).map (fun c => (decode c).mnemonic) = List.replicate n "UNMATCHED" :=
  map_range'_eq_replicate fun c hlow hhigh => (mnemonic_decode_eq_unmatched_iff c).mpr (h c hlow hhigh)

theorem range'_append_of_eq {a b m n : Nat} (h : b = a + m) :
    List.range' a m ++ List.range' b n = List.range' a (m + n) := by
  rw [h, List.range'_append_1]

theorem range_1000_eq_rows :
    List.range 1000 = List.range' 0 100 ++ List.range' 100 100 ++ List.range' 200 100 ++ List.range' 300 100 ++
      List.range' 400 100 ++ List.range' 500 100 ++ List.range' 600 100 ++ List.range' 700 100 ++ List.range' 800 100 ++
      List.range' 900 1 ++ List.range' 901 1 ++ List.range' 902 1 ++ List.range' 903 97 := by
  rw [List.range_eq_range']
  repeat rw [range'_append_of_eq rfl]

/-- The mnemonics of the codes below 1000, row by row. -/
theorem mnemonics_below_1000 :
    (List.range 1000).map (fun c => (decode c).mnemonic) =
      List.replicate 100 "HLT" ++ List.replicate 100 "ADD" ++ List.replicate 100 "SUB" ++ List.replicate 100 "STA" ++
      List.replicate 100 "UNMATCHED" ++ List.replicate 100 "LDA" ++ List.replicate 100 "BRA" ++ List.replicate 100 "BRZ" ++
      List.replicate 100 "BRP" ++ List.replicate 1 "UNMATCHED" ++ List.replicate 1 "INP" ++
      List.replicate 1 "OUT" ++ List.replicate 97 "UNMATCHED" := by
  have hhlt : (List.range' 0 100).map (fun c => (decode c).mnemonic) = List.replicate 100 "HLT" :=
    map_range'_eq_replicate fun c _ hc => by rw [(decode_eq_hlt_iff c).mpr (by omega), Instr.mnemonic]
  have hinp : (List.range' 901 1).map (fun c => (decode c).mnemonic) = List.replicate 1 "INP" := rfl
  have hout : (List.range' 902 1).map (fun c => (decode c).mnemonic) = List.replicate 1 "OUT" := rfl
  simp only [range_1000_eq_rows, List.map_append, hhlt, hinp, hout,
    mnemonics_of_hundred .add 100 "ADD", mnemonics_of_hundred .sub 200 "SUB", mnemonics_of_hundred .sta 300 "STA",
    mnemonics_of_hundred .lda 500 "LDA", mnemonics_of_hundred .bra 600 "BRA", mnemonics_of_hundred .brz 700 "BRZ",
    mnemonics_of_hundred .brp 800 "BRP",
    mnemonics_of_unmatched (low := 400) (n := 100) (fun c _ _ => .inl ⟨by omega, by omega⟩),
    mnemonics_of_unmatched (low := 900) (n := 1) (fun c _ _ => .inr (.inl (by omega))),
    mnemonics_of_unmatched (low := 903) (n := 97) (fun c _ _ => .inr (.inr (by omega)))]

theorem countP_mnemonic_eq_count (name : String) :
    ((List.range 1000).countP fun c => decide ((decode c).mnemonic = name)) =
      ((List.range 1000).map fun c => (decode c).mnemonic).count name := by
  rw [List.count, List.countP_map]
  rfl

/-- Settles O14: each range is where the instruction has its code (`decode_eq_iff`), and each count is that of the rows' mnemonics. -/
theorem decodeFollowsTheCodeRanges : Obligations.DecodeFollowsTheCodeRanges := by
  refine ⟨fun c x => ?ranges, ?counts⟩
  case ranges =>
    simp only [decode_eq_iff, ne_eq, reduceCtorEq, not_false_eq_true, Instr.wellFormed, encode, decide_eq_true_eq,
      decode_eq_hlt_iff, mnemonic_decode_eq_unmatched_iff, true_and]
    omega
  case counts =>
    simp only [countP_mnemonic_eq_count, mnemonics_below_1000, List.count_append, List.count_replicate]
    decide

/-- Settles O15: `decode` evaluates on each of the codes. -/
theorem sampleCodesDecode : Obligations.SampleCodesDecode := by
  unfold Obligations.SampleCodesDecode
  decide

end Sys2Proof

/-! ## The execute phase either raises one error or completes (60_exceptions.md R161 to R163) -/

namespace Sys2Proof.Machine

/-- The error that the execute phase of an instruction raises, if it raises one (`execState_of_raised`). -/
def raisedError (i : Instr) (s : State) : Option ErrorKind :=
  match i with
  | .add x | .sub x | .sta x | .lda x => if x < s.cfg.memorySize then none else some (.outOfBounds x)
  | .inp => if s.input = [] then some .inputExhausted else none
  | .unmatched4xx code | .unmatched9xx code | .unmatchedAbove999 code =>
    if s.cfg.policy = .strict then some (.decode code) else none
  | .unmatched900 => if s.cfg.policy = .strict then some (.decode 900) else none
  | .hlt | .bra _ | .brz _ | .brp _ | .out => none

/-- The state that an instruction which raises nothing gives (`execState_of_completed`). -/
def completedState (i : Instr) (s : State) : State :=
  match i with
  | .hlt => s.haltNow
  | .add x => { s with acc := normalise (s.acc + s.mem.peek x) s.cfg.globalModulus }
  | .sub x =>
    { s with acc := normalise (s.acc - s.mem.peek x) s.cfg.globalModulus, neg := negOfDifference s.acc (s.mem.peek x) }
  | .sta x => { s with mem := s.mem.put x (normalise s.acc s.cfg.globalModulus) }
  | .lda x => { s with acc := normalise (s.mem.peek x) s.cfg.globalModulus }
  | .bra x => { s with pc := x % s.cfg.memorySize }
  | .brz x => { s with pc := if s.acc = 0 then x % s.cfg.memorySize else s.pc }
  | .brp x => { s with pc := if s.neg = false then x % s.cfg.memorySize else s.pc }
  | .inp => { s with acc := normalise (s.input.headD 0) s.cfg.globalModulus, input := s.input.tail }
  | .out => s.emit s.acc
  | .unmatched4xx _ | .unmatched900 | .unmatched9xx _ | .unmatchedAbove999 _ => s

theorem inputState_of_nil {s : State} (h : s.input = []) : inputState s = s.raise .inputExhausted := by
  simp [inputState, h]

theorem inputState_of_cons {s : State} {r : Int} {rest : List Int} (h : s.input = r :: rest) :
    inputState s = { s with acc := normalise r s.cfg.globalModulus, input := rest } := by
  simp [inputState, h]

theorem execState_bra (x : Nat) (s : State) : execState (.bra x) s = { s with pc := x % s.cfg.memorySize } :=
  branchTo_eq s x

theorem execState_brz (x : Nat) (s : State) :
    execState (.brz x) s = { s with pc := if s.acc = 0 then x % s.cfg.memorySize else s.pc } := by
  simp only [execState, branchTo_eq]
  split <;> rfl

theorem execState_brp (x : Nat) (s : State) :
    execState (.brp x) s = { s with pc := if s.neg = false then x % s.cfg.memorySize else s.pc } := by
  simp only [execState, branchTo_eq]
  split <;> rfl

/-- All that an execute phase can do: raise the instruction's error and nothing else, or complete. -/
theorem execState_cases (i : Instr) (s : State) :
    (∃ e, raisedError i s = some e ∧ execState i s = s.raise e) ∨
    (raisedError i s = none ∧ execState i s = completedState i s) := by
  cases i with
  | hlt | out => exact .inr ⟨rfl, rfl⟩
  | bra x => exact .inr ⟨rfl, execState_bra x s⟩
  | brz x => exact .inr ⟨rfl, execState_brz x s⟩
  | brp x => exact .inr ⟨rfl, execState_brp x s⟩
  | add x | sub x | sta x | lda x =>
    rcases Nat.lt_or_ge x s.cfg.memorySize with hx | hx
    · exact .inr ⟨if_pos hx, dataAccess_of_lt hx _⟩
    · exact .inl ⟨_, if_neg hx.not_gt, dataAccess_of_ge hx _⟩
  | inp =>
    cases hin : s.input with
    | nil => exact .inl ⟨_, if_pos hin, inputState_of_nil hin⟩
    | cons r rest => exact .inr ⟨if_neg (by simp [hin]), by simp [execState, inputState_of_cons hin, completedState, hin]⟩
  | unmatched4xx code | unmatched900 | unmatched9xx code | unmatchedAbove999 code =>
    by_cases hpolicy : s.cfg.policy = .strict
    · exact .inl ⟨_, if_pos hpolicy, if_pos hpolicy⟩
    · exact .inr ⟨if_neg hpolicy, if_neg hpolicy⟩

theorem execState_of_raised {i : Instr} {s : State} {e : ErrorKind} (h : raisedError i s = some e) :
    execState i s = s.raise e := by
  rcases execState_cases i s with ⟨e', he', hs⟩ | ⟨hnone, -⟩
  · obtain rfl : e' = e := by simpa [he'] using h
    exact hs
  · simp [hnone] at h

theorem execState_of_completed {i : Instr} {s : State} (h : raisedError i s = none) :
    execState i s = completedState i s := by
  rcases execState_cases i s with ⟨e, he, -⟩ | ⟨-, hs⟩
  · simp [he] at h
  · exact hs

/-! ### Which instruction raises which error -/

theorem raisedError_eq_outOfBounds_iff (i : Instr) (s : State) (a : Nat) :
    raisedError i s = some (.outOfBounds a) ↔
      (i = .add a ∨ i = .sub a ∨ i = .sta a ∨ i = .lda a) ∧ s.cfg.memorySize ≤ a := by
  cases i with
  | hlt | bra | brz | brp | out => simp [raisedError]
  | add x | sub x | sta x | lda x =>
    simp only [raisedError, Option.ite_none_left_eq_some, Option.some.injEq, ErrorKind.outOfBounds.injEq, not_lt,
      Instr.add.injEq, Instr.sub.injEq, Instr.sta.injEq, Instr.lda.injEq, reduceCtorEq, false_or, or_false]
    constructor
    · rintro ⟨hx, rfl⟩
      exact ⟨rfl, hx⟩
    · rintro ⟨rfl, hx⟩
      exact ⟨hx, rfl⟩
  | inp | unmatched4xx | unmatched900 | unmatched9xx | unmatchedAbove999 => simp [raisedError]

theorem raisedError_eq_inputExhausted_iff (i : Instr) (s : State) :
    raisedError i s = some .inputExhausted ↔ i = .inp ∧ s.input = [] := by
  cases i <;> simp [raisedError]

theorem raisedError_eq_decode_iff (i : Instr) (s : State) (code : Nat) :
    raisedError i s = some (.decode code) ↔ i.IsUnmatched code ∧ s.cfg.policy = .strict := by
  cases i with
  | hlt | add | sub | sta | lda | bra | brz | brp | inp | out => simp [raisedError, Instr.IsUnmatched]
  | unmatched4xx | unmatched900 | unmatched9xx | unmatchedAbove999 =>
    simp [raisedError, Instr.IsUnmatched, and_comm, eq_comm]

/-! ### What an instruction keeps -/

/-- A piece of the state that neither a raise nor the completed instruction changes. -/
theorem execState_keeps {α : Type} (piece : State → α) {i : Instr} {s : State}
    (hraise : ∀ e, piece (s.raise e) = piece s) (hcompleted : piece (completedState i s) = piece s) :
    piece (execState i s) = piece s := by
  rcases execState_cases i s with ⟨e, -, h⟩ | ⟨-, h⟩
  · rw [h, hraise]
  · rw [h, hcompleted]

theorem execState_cfg (i : Instr) (s : State) : (execState i s).cfg = s.cfg :=
  execState_keeps State.cfg (fun _ => rfl) (by cases i <;> rfl)

theorem completedState_run {i : Instr} (hi : i ≠ .hlt) (s : State) : (completedState i s).run = s.run := by
  cases i with
  | hlt => exact absurd rfl hi
  | _ => rfl

/-- Of a running engine an execute phase makes a stopped one by raising alone. -/
theorem execState_run_eq_stopped_iff {s : State} (hrun : s.run = .running) (i : Instr) (e : ErrorKind) :
    (execState i s).run = .stopped e ↔ raisedError i s = some e := by
  rcases execState_cases i s with ⟨e', he, h⟩ | ⟨hnone, h⟩
  · simp [h, he]
  · rw [h, hnone]
    by_cases hi : i = .hlt
    · simp [hi, completedState]
    · simp [completedState_run hi, hrun]

/-- An instruction that is not INP leaves the input channel. -/
theorem execState_input {i : Instr} (hi : i ≠ .inp) (s : State) : (execState i s).input = s.input := by
  refine execState_keeps State.input (fun _ => rfl) ?_
  cases i with
  | inp => exact absurd rfl hi
  | _ => rfl

/-! ### The invariant (10_state.md R35) -/

/-- A raise ends a running engine, whose halt flag is clear, in a state that is not HALTED. -/
theorem State.Inv.raise {s : State} (hs : s.Inv) (hrun : s.run = .running) (e : ErrorKind) : (s.raise e).Inv :=
  { hs with halt_iff := by simp [hs.halt_false hrun] }

theorem State.Inv.haltNow {s : State} (hs : s.Inv) : s.haltNow.Inv :=
  { hs with halt_iff := by simp }

theorem State.Inv.branch {s : State} (hs : s.Inv) (x : Nat) : ({ s with pc := x % s.cfg.memorySize } : State).Inv :=
  { hs with pc_lt := Nat.mod_lt _ hs.size_pos }

theorem State.Inv.emit {s : State} (hs : s.Inv) {v : Nat} (hv : v < s.cfg.globalModulus) : (s.emit v).Inv where
  __ := hs
  output_lt w hw := by
    rcases List.mem_append.mp hw with hold | hnew
    · exact hs.output_lt w hold
    · rw [List.mem_singleton.mp hnew]
      exact hv

/-- Every value that an instruction stores is normalised, so it is in its range. -/
theorem State.Inv.completed {s : State} (hs : s.Inv) {i : Instr} (hi : raisedError i s = none) :
    (completedState i s).Inv := by
  have hnorm (r : Int) : normalise r s.cfg.globalModulus < s.cfg.globalModulus := normalise_lt r hs.modulus_pos
  cases i with
  | hlt => exact hs.haltNow
  | add | sub | lda | inp => exact { hs with acc_lt := by simpa only [completedState] using hnorm _ }
  | sta x =>
    have hx : x < s.cfg.memorySize := by simpa [raisedError] using hi
    exact hs.store hx (hnorm _)
  | bra x => exact hs.branch x
  | brz x | brp x =>
    simp only [completedState]
    split
    · exact hs.branch x
    · exact hs
  | out => exact hs.emit hs.acc_lt
  | unmatched4xx | unmatched900 | unmatched9xx | unmatchedAbove999 => exact hs

theorem State.Inv.executed {s : State} (hs : s.Inv) (hrun : s.run = .running) (i : Instr) : (execState i s).Inv := by
  rcases execState_cases i s with ⟨e, -, h⟩ | ⟨hnone, h⟩
  · rw [h]
    exact hs.raise hrun e
  · rw [h]
    exact hs.completed hnone

/-- Settles O10: a cycle is the advance and an execute phase, and each of the two keeps the invariant. -/
theorem stepKeepsInvariant : Obligations.StepKeepsInvariant := by
  intro s t hs hstep
  obtain ⟨hrun, rfl⟩ := (hs.step_eq_next_iff t).mp hstep
  exact hs.advance.executed hrun _

/-! ### No error while the addresses lie in the bank, the policy is permissive and an item is left -/

/-- The address of a well-formed instruction has two digits (20_memory.md R57), so a bank of a hundred cells holds it. -/
theorem raisedError_eq_none {i : Instr} {s : State} (hi : i.wellFormed = true) (hsize : 100 ≤ s.cfg.memorySize)
    (hpolicy : s.cfg.policy = .permissive) (hinput : s.input ≠ []) : raisedError i s = none := by
  cases i with
  | hlt | bra | brz | brp | out => rfl
  | add x | sub x | sta x | lda x =>
    have hx : x ≤ 99 := of_decide_eq_true hi
    exact if_pos (by omega)
  | inp => exact if_neg hinput
  | unmatched4xx | unmatched900 | unmatched9xx | unmatchedAbove999 => exact if_neg (by simp [hpolicy])

/-- An execute phase takes at most one item. -/
theorem length_input_le_execState (i : Instr) (s : State) : s.input.length ≤ (execState i s).input.length + 1 := by
  by_cases hi : i = .inp
  · subst hi
    rcases execState_cases .inp s with ⟨e, -, h⟩ | ⟨-, h⟩
    · simp [h]
    · simp only [h, completedState, List.length_tail]
      omega
  · rw [execState_input hi]
    omega

/-- Settles O52: the cycle keeps the invariant and takes at most one item, and its instruction, decoded from a code and so
well-formed, raises nothing. -/
theorem stepKeepsInputSafety : Obligations.StepKeepsInputSafety := by
  intro n s t hs hstep
  obtain ⟨hrun, rfl⟩ := (hs.inv.step_eq_next_iff t).mp hstep
  have hcfg : (execState (decode (s.mem.peek s.pc)) s.advance).cfg = s.cfg := execState_cfg _ s.advance
  have hinput : s.input ≠ [] := List.ne_nil_of_length_pos (by have := hs.items; omega)
  refine ⟨⟨hs.inv.advance.executed hrun _, ?noError, hcfg ▸ hs.size, hcfg ▸ hs.policy, ?items⟩, hcfg⟩
  case noError =>
    intro e he
    have hraised := (execState_run_eq_stopped_iff (s := s.advance) hrun _ e).mp he
    have hnone : raisedError (decode (s.mem.peek s.pc)) s.advance = none :=
      raisedError_eq_none (wellFormed_decode _) hs.size hs.policy hinput
    simp [hnone] at hraised
  case items =>
    have htaken := length_input_le_execState (decode (s.mem.peek s.pc)) s.advance
    have hleft := hs.items
    simp only [State.advance_input] at htaken
    omega

end Sys2Proof.Machine

/-! ## The memory bank: one cell at a time, and one canonical form (20_memory.md R50, R51) -/

namespace Sys2Proof.Machine

/-- Settles O3: both primitives ask whether the address lies in the bank; there the laws of `Memory.put` say what the write does to
each cell. -/
theorem bankPrimitivesReadAndWriteOneCell : Obligations.BankPrimitivesReadAndWriteOneCell := by
  intro s a v hs
  rw [memRead_eq, memWrite_eq]
  refine ⟨?inBank, ?outOfBank⟩
  case inBank =>
    intro ha
    rw [if_pos ha, if_pos ha]
    refine ⟨rfl, hs.peek_lt a, _, rfl, rfl, Memory.put_wf hs.mem_wf a _, ?_, fun _ hb => Memory.peek_put_other hb _⟩
    rw [State.putMem_mem, Memory.peek_put_self hs.mem_wf, ModularCell.assign_value, State.memCell_modulus,
      intCast_normalise v hs.modulus_pos]
  case outOfBank =>
    intro ha
    rw [if_neg ha.not_gt, if_neg ha.not_gt]
    exact ⟨rfl, rfl⟩

/-- A canonical memory lists exactly the cells that do not read as an unlisted one. -/
theorem Memory.mem_iff_peek {m : Memory} (hm : m.wf) (c : Cell) :
    c ∈ m ↔ m.peek c.1 = c.2 ∧ c.2 ≠ Memory.unlisted := by
  constructor
  · exact fun hc => ⟨Memory.peek_of_mem hm hc, hm.2 c hc⟩
  · rintro ⟨hpeek, hlisted⟩
    have hentry := (Memory.peek_cases m c.1).resolve_left (hpeek ▸ hlisted)
    rwa [hpeek] at hentry

/-- The order of the entries in a canonical memory. -/
def AddressLt (c d : Cell) : Prop := c.1 < d.1

theorem addressLt_irrefl : Std.Irrefl AddressLt := ⟨fun c => Nat.lt_irrefl c.1⟩

theorem addressLt_antisymm : Std.Antisymm AddressLt := ⟨fun _ _ hcd hdc => absurd hcd (Nat.lt_asymm hdc)⟩

/-- Settles O4: equal reads list the same cells, and a list in strict order is determined by its members. -/
theorem equalReadsMakeEqualMemories : Obligations.EqualReadsMakeEqualMemories := by
  intro m n hm hn hreads
  have hirrefl := addressLt_irrefl
  have hantisymm := addressLt_antisymm
  refine List.Pairwise.eq_of_mem_iff (r := AddressLt) hm.1 hn.1 fun c => ?_
  rw [Memory.mem_iff_peek hm, Memory.mem_iff_peek hn, hreads]

/-! ## What construction leaves (70_reset_and_hazards.md R190, R191) -/

theorem Memory.nil_wf : Memory.wf [] := by decide

/-- The cells before the load and after its end keep their contents. -/
theorem peek_loadFrom_outside (p : Nat) (program : List Int) {i a : Nat} (m : Memory)
    (ha : a < i ∨ i + program.length ≤ a) : (loadFrom p i program m).peek a = m.peek a := by
  induction program generalizing i m with
  | nil => rfl
  | cons r rest ih =>
    rw [List.length_cons] at ha
    rw [loadFrom, ih _ (by omega), Memory.peek_put_other (by omega)]

/-- A cell of the load holds its element, normalised: the elements after it go to other cells. -/
theorem peek_loadFrom_inside (p : Nat) {program : List Int} (i : Nat) {m : Memory} (hm : m.wf) {j : Nat}
    (hj : j < program.length) : (loadFrom p i program m).peek (i + j) = normalise program[j] p := by
  induction program generalizing i m j with
  | nil => simp at hj
  | cons r rest ih =>
    rw [loadFrom]
    cases j with
    | zero => rw [peek_loadFrom_outside p rest _ (by omega), Nat.add_zero, Memory.peek_put_self hm, List.getElem_cons_zero]
    | succ j =>
      have hrest := ih (i + 1) (Memory.put_wf hm i (normalise r p)) (Nat.lt_of_succ_lt_succ hj)
      rwa [Nat.add_assoc, Nat.add_comm 1] at hrest

/-- A program that ends within the bank keeps the cells in the bank and in `[0, P)`. -/
theorem loadFrom_fits {cfg : Config} (hP : 0 < cfg.globalModulus) {program : List Int} {i : Nat} {m : Memory}
    (hm : m.fits cfg) (hlen : i + program.length ≤ cfg.memorySize) :
    (loadFrom cfg.globalModulus i program m).fits cfg := by
  induction program generalizing i m with
  | nil => exact hm
  | cons r rest ih =>
    rw [List.length_cons] at hlen
    exact ih (Memory.put_fits hm (by omega) (normalise_lt r hP)) (by omega)

theorem intCast_normalise_toNat (r : Int) {m : Int} (hm : 0 < m) : (normalise r m.toNat : Int) = r % m := by
  rw [intCast_normalise r (by omega), Int.toNat_of_nonneg hm.le]

/-- Settles O6: the engine is `createdState`, whose cells are those of the load from address 0. -/
theorem constructionSetsEveryField : Obligations.ConstructionSetsEveryField := by
  intro k input hP hN hlen
  refine ⟨_, create_of_legal ⟨hP, hN, hlen⟩ input, ?loaded, ?unloaded, intCast_normalise_toNat _ hP,
    intCast_normalise_toNat _ hN, rfl, rfl, rfl, rfl, rfl, Int.toNat_of_nonneg hP.le, Int.toNat_of_nonneg hN.le, rfl⟩
  case loaded =>
    intro i hi
    have hcell := peek_loadFrom_inside k.globalModulus.toNat 0 Memory.nil_wf hi
    rw [Nat.zero_add] at hcell
    rw [createdState, hcell, intCast_normalise_toNat _ hP]
  case unloaded =>
    intro i hi
    rw [createdState, peek_loadFrom_outside _ _ _ (by omega), Memory.peek_nil]

theorem createdState_inv {k : Construction} (hk : k.Legal) (input : List Int) : (createdState k input).Inv := by
  obtain ⟨hP, hN, hlen⟩ := hk
  have hP' : 0 < k.globalModulus.toNat := by omega
  have hN' : 0 < k.memorySize.toNat := by omega
  have hlen' : 0 + k.program.length ≤ k.memorySize.toNat := by omega
  exact {
    modulus_pos := hP'
    size_pos := hN'
    mem_wf := loadFrom_wf _ _ _ Memory.nil_wf
    mem_fits := loadFrom_fits (cfg := ⟨k.globalModulus.toNat, k.memorySize.toNat, k.policy⟩) hP' (by simp [Memory.fits]) hlen'
    acc_lt := normalise_lt _ hP'
    pc_lt := normalise_lt _ hN'
    halt_iff := by simp [createdState]
    output_lt := by simp [createdState] }

/-- Settles O8: an engine comes from legal parameters only, and then it is `createdState`. -/
theorem constructionSatisfiesInvariant : Obligations.ConstructionSatisfiesInvariant := by
  intro k input t h
  obtain ⟨hk, rfl⟩ := (create_eq_next_iff k input t).mp h
  exact createdState_inv hk input

/-- Settles O7: the default parameters are legal, and each field of the engine evaluates to the reset state's. -/
theorem resetIsConstructionAtTheDefaults : Obligations.ResetIsConstructionAtTheDefaults :=
  (create_eq_next_iff _ _ _).mpr ⟨⟨by decide, by decide, by decide⟩, rfl⟩

/-- Settles O9: the reset state is a constructed engine. -/
theorem resetSatisfiesInvariant : Obligations.ResetSatisfiesInvariant :=
  constructionSatisfiesInvariant _ _ _ resetIsConstructionAtTheDefaults

end Sys2Proof.Machine

/-! ## The cycle: fetch, advance, execute (40_cycle.md R90 to R93, R96) -/

namespace Sys2Proof.Machine

/-- Settles O18: with the program counter in the bank the fetch succeeds (`step_of_pc_lt`). -/
theorem stepRunsTheDecodedInstruction : Obligations.StepRunsTheDecodedInstruction := by
  rintro s i hrun hpc rfl
  rw [step_of_pc_lt hrun hpc, exec_eq_next, State.advance_eq]

/-- Settles O19: the program counter of an engine lies in the bank, and so does what a cell reads in `[0, P)`. -/
theorem fetchNeverRaises : Obligations.FetchNeverRaises := by
  intro s hs
  rw [fetch_eq, if_pos hs.pc_lt]
  exact ⟨rfl, hs.peek_lt s.pc⟩

theorem step_of_pc_ge {s : State} (hrun : s.run = .running) (hpc : s.cfg.memorySize ≤ s.pc) :
    step s = .next (s.raise (.outOfBounds s.pc)) := by
  simp only [step, hrun, fetch_eq, if_neg hpc.not_gt]

/-- Settles O20: a fetch in the bank is followed by an execute phase, which always answers a next state; outside it raises. -/
theorem runningEngineAlwaysCompletesItsCycle : Obligations.RunningEngineAlwaysCompletesItsCycle := by
  intro s hrun
  rcases Nat.lt_or_ge s.pc s.cfg.memorySize with hpc | hpc
  · exact ⟨_, step_of_pc_lt hrun hpc⟩
  · exact ⟨_, step_of_pc_ge hrun hpc⟩

theorem step_of_not_running {s : State} (h : s.run ≠ .running) : step s = .refused (.notRunning s.run) := by
  unfold step
  split
  · contradiction
  · next hrun => rw [hrun]
  · next hrun => rw [hrun]

/-- Settles O22: `step` and the two run functions ask for the run state first. -/
theorem endedEngineTakesNoStep : Obligations.EndedEngineTakesNoStep :=
  fun _ h => ⟨step_of_not_running h, fun k => ⟨runFor_of_not_running h k, cyclesFor_of_not_running h k⟩⟩

/-- Settles O23: the placed code is what the cell at the program counter reads, and the bank keeps its size. -/
theorem placedCodeIsExecutedNext : Obligations.PlacedCodeIsExecutedNext := by
  intro s nbits w hrun hpc hwf
  exact stepRunsTheDecodedInstruction (s.withFetchWord nbits w) _ hrun hpc
    (congrArg decode (Memory.peek_put_self hwf s.pc w))

/-- Settles O29: the state after the store is an engine's, and the cell at its program counter reads the stored accumulator. -/
theorem storedCodeIsFetchedNext : Obligations.StoredCodeIsFetchedNext := by
  intro s hs hrun hsta
  have hnext : (s.pc + 1) % s.cfg.memorySize < s.cfg.memorySize := Nat.mod_lt _ hs.size_pos
  have hstep : step s = .next { s.advance with mem := s.mem.put ((s.pc + 1) % s.cfg.memorySize) s.acc } := by
    rw [step_of_pc_lt hrun hs.pc_lt, hsta, hs.advance.execState_sta_of_lt hnext]
    rfl
  have hpc : s.advance.pc = (s.pc + 1) % s.cfg.memorySize := by rw [State.advance_eq]
  refine ⟨_, hstep, hpc, stepRunsTheDecodedInstruction _ _ hrun hs.advance.pc_lt ?_⟩
  simp only [hpc, Memory.peek_put_self hs.mem_wf]

/-! ### Where the program counter stands -/

theorem execState_pc {i : Instr} (hbra : ∀ x, i ≠ .bra x) (hbrz : ∀ x, i ≠ .brz x) (hbrp : ∀ x, i ≠ .brp x) (s : State) :
    (execState i s).pc = s.pc := by
  refine execState_keeps State.pc (fun _ => rfl) ?_
  cases i with
  | bra x => exact absurd rfl (hbra x)
  | brz x => exact absurd rfl (hbrz x)
  | brp x => exact absurd rfl (hbrp x)
  | _ => rfl

/-- Settles O21: the advance comes before the execute phase, in which the three branches alone write the program counter. -/
theorem cycleAdvancesOrBranches : Obligations.CycleAdvancesOrBranches := by
  intro s t hpc hstep
  obtain ⟨-, ⟨-, hexec⟩ | ⟨hout, -⟩⟩ := step_next hstep
  · rw [(exec_eq_next_iff _ _ t).mp hexec, State.advance_eq]
    split
    · next hbra => rw [hbra, execState_bra]
    · next hbrz => rw [hbrz, execState_brz]
    · next hbrp => rw [hbrp, execState_brp]
    · next hbra hbrz hbrp => rw [execState_pc hbra hbrz hbrp]
  · exact absurd hpc hout

/-! ## Branches, input and output (43_branch.md R130 to R134, 44_io.md R140, R142) -/

/-- Settles O30: the codes are those of a hundred, and the execute phase is `execState_bra`. -/
theorem braBranchesAlways : Obligations.BraBranchesAlways := by
  refine ⟨fun _ => decode_of_hundred .bra (fun _ => decide_eq_true) (fun _ => rfl) (by decide), fun x s => ?_⟩
  rw [exec_eq_next, execState_bra]

/-- Settles O31: the codes are those of a hundred, and the execute phase is `execState_brz`. -/
theorem brzBranchesOnZeroAccumulator : Obligations.BrzBranchesOnZeroAccumulator := by
  refine ⟨fun _ => decode_of_hundred .brz (fun _ => decide_eq_true) (fun _ => rfl) (by decide), fun x s => ?_⟩
  rw [exec_eq_next, execState_brz]

/-- Settles O32: the codes are those of a hundred, and the execute phase is `execState_brp`. -/
theorem brpBranchesOnClearNeg : Obligations.BrpBranchesOnClearNeg := by
  refine ⟨fun _ => decode_of_hundred .brp (fun _ => decide_eq_true) (fun _ => rfl) (by decide), fun x s => ?_⟩
  rw [exec_eq_next, execState_brp]

theorem decode_eq_inp_iff (c : Nat) : decode c = .inp ↔ c = 901 := by
  rw [decode_eq_iff (by simp)]
  simp [Instr.wellFormed, encode, eq_comm]

theorem decode_eq_out_iff (c : Nat) : decode c = .out ↔ c = 902 := by
  rw [decode_eq_iff (by simp)]
  simp [Instr.wellFormed, encode, eq_comm]

/-- Settles O34: with an item and without one by the two equations of `inputState`; the accumulator takes the item's remainder. -/
theorem inpTakesOneItem : Obligations.InpTakesOneItem := by
  refine ⟨fun c => (decode_eq_inp_iff c).mpr, ?item, ?exhausted⟩
  case item =>
    intro s r rest hP hin
    refine ⟨_, intCast_normalise r hP, ?_⟩
    rw [exec_eq_next, execState, inputState_of_cons hin]
  case exhausted =>
    intro s hin
    rw [exec_eq_next, execState, inputState_of_nil hin, State.raise]

/-- Settles O35: the emitted value is the accumulator, which is stored normalised. -/
theorem outEmitsTheAccumulator : Obligations.OutEmitsTheAccumulator :=
  ⟨fun c => (decode_eq_out_iff c).mpr, fun s => exec_eq_next .out s⟩

/-! ## Runs under a ceiling (40_cycle.md R98 to R100) -/

/-- The induction over a run: what every cycle keeps, at the count of one cycle less, holds of the state that the run answers, at the
count of the cycles that the engine has left. -/
theorem runFor_keeps {p : Nat → State → Prop}
    (hstep : ∀ n s, p (n + 1) s → s.run = .running → ∃ t, step s = .next t ∧ p n t) {k : Nat} {s : State} (hs : p k s) :
    ∃ t n, runFor k s = .next t ∧ p n t := by
  induction k generalizing s with
  | zero => exact ⟨s, 0, rfl, hs⟩
  | succ k ih =>
    by_cases hrun : s.run = .running
    · obtain ⟨u, hu, hpu⟩ := hstep k s hs hrun
      rw [runFor_succ hrun hu]
      exact ih hpu
    · exact ⟨s, k + 1, runFor_of_not_running hrun _, hs⟩

/-- Settles O11: every cycle of a running engine answers a next state, with the invariant by `stepKeepsInvariant`. -/
theorem everyRunAnswersAStateWithInvariant : Obligations.EveryRunAnswersAStateWithInvariant := by
  intro k s hs
  have hcycle (_ : Nat) (s : State) (hs : s.Inv) (hrun : s.run = .running) : ∃ t, step s = .next t ∧ t.Inv := by
    obtain ⟨t, hstep⟩ := runningEngineAlwaysCompletesItsCycle s hrun
    exact ⟨t, hstep, stepKeepsInvariant s t hs hstep⟩
  obtain ⟨t, -, ht, hinv⟩ := runFor_keeps (p := fun _ => State.Inv) hcycle (k := k) hs
  exact ⟨t, ht, hinv⟩

/-- Settles O44: as many items as cycles make the engine safe for them, and each cycle keeps it safe for the rest. -/
theorem enoughInputMakesRunsSafe : Obligations.EnoughInputMakesRunsSafe := by
  intro s fuel hs hnoError hsize hpolicy hitems k hk
  have hsafe : s.SafeWithInput k := ⟨hs, hnoError, hsize, hpolicy, hk.trans hitems⟩
  have hcycle (n : Nat) (s : State) (hs : s.SafeWithInput (n + 1)) (hrun : s.run = .running) :
      ∃ t, step s = .next t ∧ t.SafeWithInput n := by
    obtain ⟨t, hstep⟩ := runningEngineAlwaysCompletesItsCycle s hrun
    exact ⟨t, hstep, (stepKeepsInputSafety n s t hs hstep).1⟩
  obtain ⟨t, _, ht, hrest⟩ := runFor_keeps (p := State.SafeWithInput) hcycle hsafe
  exact ⟨t, ht, hrest.noError⟩

/-- Settles O50, by induction on the cycles before the cut; an engine that ends before it runs no cycle after it. -/
theorem runSplitsAtAnyCycle : Obligations.RunSplitsAtAnyCycle := by
  intro j k s t h
  induction j generalizing s with
  | zero =>
    obtain rfl : s = t := by simpa [runFor] using h
    simp [cyclesFor]
  | succ j ih =>
    rw [Nat.succ_add]
    by_cases hrun : s.run = .running
    · obtain ⟨u, hu⟩ := runningEngineAlwaysCompletesItsCycle s hrun
      rw [runFor_succ hrun hu] at h
      obtain ⟨hrunFor, hcycles⟩ := ih u h
      rw [runFor_succ hrun hu, cyclesFor_succ hrun hu, cyclesFor_succ hrun hu, hrunFor, hcycles]
      exact ⟨rfl, Nat.add_right_comm _ _ _⟩
    · rw [runFor_of_not_running hrun] at h
      obtain rfl : s = t := by simpa using h
      simp only [runFor_of_not_running hrun, cyclesFor_of_not_running hrun, and_self]

/-- A running engine whose cycle changes nothing runs forever. -/
theorem runFor_of_step_self {s : State} (hrun : s.run = .running) (hstep : step s = .next s) (k : Nat) :
    runFor k s = .next s ∧ cyclesFor k s = k := by
  induction k with
  | zero => exact ⟨rfl, rfl⟩
  | succ k ih =>
    obtain ⟨hrunFor, hcycles⟩ := ih
    rw [runFor_succ hrun hstep, cyclesFor_succ hrun hstep, hcycles]
    exact ⟨hrunFor, rfl⟩

/-- Settles O33: the branch overwrites the advance with the address it came from. -/
theorem branchToItselfRunsForever : Obligations.BranchToItselfRunsForever := by
  intro s hs hrun hbra
  refine runFor_of_step_self hrun ?_
  rw [step_of_pc_lt hrun hs.pc_lt, hbra, execState_bra, State.advance_eq]
  simp only [Nat.mod_eq_of_lt hs.pc_lt]

theorem execState_decode_of_unmatchedCode {c : Nat} (h : unmatchedCode c) (s : State) :
    execState (decode c) s = unmatchedState c s := by
  have hexec := exec_decode_of_unmatchedCode h s
  rw [unmatchedCycle_eq_next, exec_eq_next_iff] at hexec
  exact hexec.symm

/-- Settles O39, by induction on the cycles: each of them is the advance alone, after which the hypotheses hold again. -/
theorem allUnmatchedMemoryRunsForever : Obligations.AllUnmatchedMemoryRunsForever := by
  intro s hs hrun hpolicy hcells k
  induction k generalizing s with
  | zero => exact ⟨by rw [runFor, Nat.add_zero, Nat.mod_eq_of_lt hs.pc_lt], rfl⟩
  | succ k ih =>
    have hstep : step s = .next s.advance := by
      rw [step_of_pc_lt hrun hs.pc_lt, execState_decode_of_unmatchedCode (hcells _ hs.pc_lt),
        unmatchedState_of_permissive (s := s.advance) hpolicy]
    obtain ⟨hrunFor, hcycles⟩ := ih s.advance hs.advance hrun hpolicy hcells
    rw [runFor_succ hrun hstep, cyclesFor_succ hrun hstep, hrunFor, hcycles, State.advance_eq]
    simp only [Nat.mod_add_mod, Nat.add_assoc, Nat.add_comm 1 k, and_self]

/-- Settles O40: every cell holds a code below 100. -/
theorem smallModulusOnlyHalts : Obligations.SmallModulusOnlyHalts := by
  intro s hs hrun hP
  have hcode : s.mem.peek s.pc < 100 := (hs.peek_lt s.pc).trans_le hP
  rw [step_of_peek_lt_100 hrun hs.pc_lt hcode, State.advance_eq, State.haltNow]

/-! ## Several engines (20_memory.md R64) -/

/-- The state after the next cycle, if the engine takes one (`stepEngine_eq`). -/
def State.afterCycle (s : State) : Option State :=
  match step s with
  | .next t => some t
  | .fault _ => none
  | .refused _ => none

/-- A cycle of engine `k` depends on the `k`-th state alone, and replaces that state alone. -/
theorem stepEngine_eq (k : Nat) (engines : List State) :
    stepEngine k engines = (engines[k]?.bind State.afterCycle).map (engines.set k) := by
  unfold stepEngine State.afterCycle
  cases engines[k]? with
  | none => rfl
  | some s => cases h : step s <;> simp [h]

/-- A cycle of `j` and then one of `k`: the second finds its engine as the first found it. -/
theorem stepEngine_bind {j k : Nat} (hjk : j ≠ k) (engines : List State) :
    (stepEngine j engines).bind (stepEngine k) =
      (engines[j]?.bind State.afterCycle).bind fun t =>
        (engines[k]?.bind State.afterCycle).map fun u => (engines.set j t).set k u := by
  rw [stepEngine_eq, Option.bind_map]
  refine congrArg _ (funext fun t => ?_)
  rw [Function.comp_apply, stepEngine_eq, List.getElem?_set_ne hjk]

/-- Settles O51: a cycle writes one place of the list, and writes at two places commute. -/
theorem enginesAreIndependent : Obligations.EnginesAreIndependent := by
  intro j k engines hjk
  constructor
  · intro next h
    rw [stepEngine_eq, Option.map_eq_some_iff] at h
    obtain ⟨t, -, rfl⟩ := h
    exact List.getElem?_set_ne hjk
  · rw [stepEngine_bind hjk, stepEngine_bind hjk.symm]
    cases engines[j]?.bind State.afterCycle with
    | none => simp
    | some t =>
      cases engines[k]?.bind State.afterCycle with
      | none => rfl
      | some u => exact congrArg some (List.set_comm t u hjk)

end Sys2Proof.Machine

/-! ## Errors: which cycle raises which, and what it leaves (60_exceptions.md R161 to R163) -/

namespace Sys2Proof.Machine

/-- A cycle of a running engine ends in STOPPED exactly with the error that its instruction raises. -/
theorem State.Inv.step_stops_iff {s : State} (hs : s.Inv) (hrun : s.run = .running) (e : ErrorKind) :
    (∃ t, step s = .next t ∧ t.run = .stopped e) ↔ raisedError (decode (s.mem.peek s.pc)) s.advance = some e := by
  rw [← execState_run_eq_stopped_iff (s := s.advance) hrun]
  simp [step_of_pc_lt hrun hs.pc_lt]

/-- Settles O41: the raise is all that the execute phase does, in the state after the advance. -/
theorem errorLeavesOnlyTheAdvance : Obligations.ErrorLeavesOnlyTheAdvance := by
  intro s t e hs hstep ht
  obtain ⟨hrun, rfl⟩ := (hs.step_eq_next_iff t).mp hstep
  have hraised := (execState_run_eq_stopped_iff (s := s.advance) hrun _ e).mp ht
  rw [execState_of_raised hraised]
  have hended : (s.advance.raise e).run ≠ .running := by simp
  refine ⟨by rw [State.advance_eq, State.raise], hs.halt_false hrun, fun k => ?_⟩
  exact ⟨runFor_of_not_running hended k, cyclesFor_of_not_running hended k⟩

/-- Settles O42: each error by the instructions that raise it, and these by the ranges of their codes. -/
theorem eachErrorHasItsCause : Obligations.EachErrorHasItsCause := by
  intro s e hs hrun
  rw [hs.step_stops_iff hrun]
  cases e with
  | outOfBounds a =>
    simp only [raisedError_eq_outOfBounds_iff, decode_eq_iff, ne_eq, reduceCtorEq, not_false_eq_true, Instr.wellFormed,
      encode, decide_eq_true_eq, State.advance_cfg]
    omega
  | inputExhausted => rw [raisedError_eq_inputExhausted_iff, decode_eq_inp_iff, State.advance_input]
  | decode code => rw [raisedError_eq_decode_iff, isUnmatched_decode_iff, State.advance_cfg, and_assoc]

/-- Settles O43: the codes and the info are the table's rows, and the error kinds have codes 1 to 3. -/
theorem statusCodesAndInfo : Obligations.StatusCodesAndInfo := by
  refine ⟨rfl, rfl, fun a => ⟨rfl, rfl⟩, rfl, rfl, fun c => ⟨rfl, rfl⟩, rfl, fun r => ?_⟩
  cases r with
  | running | halted => simp [RunState.code]
  | stopped e => cases e <;> simp [RunState.code, ErrorKind.code]

/-! ## The channels (10_state.md section 6, 44_io.md R140 to R144) -/

theorem State.Inv.nextInstr_eq {s : State} (hs : s.Inv) (hrun : s.run = .running) :
    s.nextInstr = some (decode (s.mem.peek s.pc)) := by
  simp only [State.nextInstr, hrun, fetch_eq, if_pos hs.pc_lt]

theorem State.inReq_iff (s : State) : s.inReq = true ↔ s.nextInstr = some .inp :=
  decide_eq_true_iff

theorem State.inResp_eq_some_iff (s : State) (a : InResponse) :
    s.inResp = some a ↔ s.nextInstr = some .inp ∧ s.inResponse = a := by
  simp [State.inResp, State.inReq_iff]

/-- An instruction that is not OUT leaves the output. -/
theorem execState_output {i : Instr} (hi : i ≠ .out) (s : State) : (execState i s).output = s.output := by
  refine execState_keeps State.output (fun _ => rfl) ?_
  cases i with
  | out => exact absurd rfl hi
  | _ => rfl

/-- Settles O36: of the instruction that the cycle runs, OUT alone writes the output and INP alone takes an item, or raises if there is
none. -/
theorem channelsFollowTheInterface : Obligations.ChannelsFollowTheInterface := by
  intro s t hs hstep
  obtain ⟨hrun, rfl⟩ := (hs.step_eq_next_iff t).mp hstep
  have hnext := hs.nextInstr_eq hrun
  generalize decode (s.mem.peek s.pc) = i at hnext ⊢
  refine ⟨?output, ?noRequest, ?item, ?exhausted⟩
  case output =>
    by_cases hi : i = .out
    · simp [hi, State.outData, hnext, execState]
    · simp [hi, State.outData, hnext, execState_output]
  case noRequest =>
    intro hreq
    have hi : i ≠ .inp := by simpa [State.inReq, hnext] using hreq
    exact ⟨execState_input hi _, by simp [State.inResp, hreq]⟩
  case item =>
    intro r hr
    rw [State.inResp_eq_some_iff, hnext, Option.some.injEq] at hr
    obtain ⟨rfl, hitem⟩ := hr
    rcases s.inResponse_eq with ⟨hexhausted, -⟩ | ⟨r', rest, hresponse, hinput, -⟩
    · simp [hexhausted] at hitem
    · obtain rfl : r' = r := by simpa [hresponse] using hitem
      rw [execState, inputState_of_cons (s := s.advance) hinput]
      exact ⟨hinput, intCast_normalise r' hs.modulus_pos⟩
  case exhausted =>
    rw [execState_run_eq_stopped_iff (s := s.advance) hrun, raisedError_eq_inputExhausted_iff, State.inResp_eq_some_iff,
      hnext, Option.some.injEq, State.advance_input]
    refine and_congr_right fun _ => ?_
    rcases s.inResponse_eq with ⟨hresponse, hinput⟩ | ⟨r, rest, hresponse, hinput, -⟩ <;> simp [hresponse, hinput]

/-! ## What an instruction writes, and what it does not read (10_state.md sections 2 to 4, 20_memory.md section 3) -/

theorem execState_acc {i : Instr} (hi : i.mnemonic ∉ ["ADD", "SUB", "LDA", "INP"]) (s : State) :
    (execState i s).acc = s.acc := by
  refine execState_keeps State.acc (fun _ => rfl) ?_
  cases i with
  | add | sub | lda | inp => simp [Instr.mnemonic] at hi
  | _ => rfl

theorem execState_mem {i : Instr} (hi : ∀ x, i ≠ .sta x) (s : State) : (execState i s).mem = s.mem := by
  refine execState_keeps State.mem (fun _ => rfl) ?_
  cases i with
  | sta x => exact absurd rfl (hi x)
  | _ => rfl

/-- The ways into HALTED and STOPPED. -/
theorem execState_run_cases (i : Instr) (s : State) :
    (execState i s).run = s.run ∨ ((execState i s).run = .halted ∧ i = .hlt) ∨
      ∃ e, (execState i s).run = .stopped e ∧ raisedError i s = some e := by
  rcases execState_cases i s with ⟨e, he, h⟩ | ⟨-, h⟩
  · exact .inr (.inr ⟨e, by rw [h, State.raise_run], he⟩)
  · rw [h]
    by_cases hi : i = .hlt
    · subst hi
      exact .inr (.inl ⟨rfl, rfl⟩)
    · exact .inl (completedState_run hi s)

/-- An instruction of another mnemonic is another instruction. -/
theorem ne_of_mnemonic_ne {i j : Instr} (h : ¬ i.mnemonic = j.mnemonic) : i ≠ j :=
  ne_of_apply_ne Instr.mnemonic h

/-- Settles O47: each clause is the frame of one piece of state, which a change contradicts unless the instruction is a writer; the run
state by the errors of each instruction. -/
theorem eachRegisterHasItsWriters : Obligations.EachRegisterHasItsWriters := by
  intro i s t h
  obtain rfl := (exec_eq_next_iff i s t).mp h
  refine ⟨execState_cfg i s, ?acc, ?pc, ?neg, ?halt, ?mem, ?input, ?output, ?run⟩
  case acc => exact fun hne => by_contra fun hi => hne (execState_acc (by simpa using hi) s)
  case pc =>
    intro hne
    by_contra hi
    obtain ⟨hbra, hbrz, hbrp⟩ : ¬ i.mnemonic = "BRA" ∧ ¬ i.mnemonic = "BRZ" ∧ ¬ i.mnemonic = "BRP" := by simpa using hi
    exact hne (execState_pc (fun _ => ne_of_mnemonic_ne hbra) (fun _ => ne_of_mnemonic_ne hbrz)
      (fun _ => ne_of_mnemonic_ne hbrp) s)
  case neg => exact fun hne => by_contra fun hi => hne (execState_neg (fun _ => ne_of_mnemonic_ne hi) s)
  case halt =>
    intro hne
    by_contra hi
    have hhlt : i ≠ .hlt := ne_of_mnemonic_ne hi
    exact hne (by simp [execState_halt, hhlt])
  case mem => exact fun hne => by_contra fun hi => hne (execState_mem (fun _ => ne_of_mnemonic_ne hi) s)
  case input => exact fun hne => by_contra fun hi => hne (execState_input (ne_of_mnemonic_ne hi) s)
  case output => exact fun hne => by_contra fun hi => hne (execState_output (ne_of_mnemonic_ne hi) s)
  case run =>
    intro hne
    rcases execState_run_cases i s with hsame | ⟨hhalted, rfl⟩ | ⟨e, hstopped, hraised⟩
    · exact absurd hsame hne
    · exact .inl ⟨hhalted, rfl⟩
    · right
      cases e with
      | outOfBounds a =>
        obtain ⟨hi, -⟩ := (raisedError_eq_outOfBounds_iff i s a).mp hraised
        refine .inl ⟨a, hstopped, ?_⟩
        rcases hi with rfl | rfl | rfl | rfl <;> simp [Instr.mnemonic]
      | inputExhausted =>
        obtain ⟨rfl, -⟩ := (raisedError_eq_inputExhausted_iff i s).mp hraised
        exact .inr (.inl ⟨hstopped, rfl⟩)
      | decode code =>
        obtain ⟨hi, -⟩ := (raisedError_eq_decode_iff i s code).mp hraised
        exact .inr (.inr ⟨code, hstopped, i.mnemonic_eq_unmatched_iff.mpr ⟨code, hi⟩⟩)

/-! ### The decode policy -/

/-- The state with another decode policy. -/
def State.withPolicy (s : State) (p : DecodePolicy) : State := { s with cfg := { s.cfg with policy := p } }

theorem raisedError_withPolicy {i : Instr} (hi : i.mnemonic ≠ "UNMATCHED") (s : State) (p : DecodePolicy) :
    raisedError i (s.withPolicy p) = raisedError i s := by
  cases i with
  | unmatched4xx | unmatched900 | unmatched9xx | unmatchedAbove999 => exact absurd rfl hi
  | _ => rfl

theorem completedState_withPolicy (i : Instr) (s : State) (p : DecodePolicy) :
    completedState i (s.withPolicy p) = (completedState i s).withPolicy p := by
  cases i <;> rfl

/-- Settles O48: no instruction but an unmatched one raises by the policy, and none completes by it. -/
theorem policyMattersOnlyOnUnmatchedCodes : Obligations.PolicyMattersOnlyOnUnmatchedCodes := by
  intro i s t p hi h
  obtain rfl := (exec_eq_next_iff i s t).mp h
  refine (exec_eq_next_iff i (s.withPolicy p) ((execState i s).withPolicy p)).mpr ?_
  have hraised := raisedError_withPolicy hi s p
  rcases execState_cases i s with ⟨e, he, hs⟩ | ⟨hnone, hs⟩
  · rw [hs, execState_of_raised (hraised.trans he)]
    rfl
  · rw [hs, execState_of_completed (hraised.trans hnone), completedState_withPolicy]

/-! ### The cells from 100 on -/

/-- The address of a well-formed STA has two digits, so no other cell is written. -/
theorem peek_execState {i : Instr} (hi : i.wellFormed = true) (s : State) {a : Nat} (ha : 100 ≤ a) :
    (execState i s).mem.peek a = s.mem.peek a := by
  by_cases hsta : ∃ x, i = .sta x
  · obtain ⟨x, rfl⟩ := hsta
    have hx : x ≤ 99 := of_decide_eq_true hi
    rcases execState_cases (.sta x) s with ⟨e, -, h⟩ | ⟨-, h⟩
    · rw [h, State.raise_mem]
    · rw [h, completedState, Memory.peek_put_other (by omega)]
  · rw [execState_mem (not_exists.mp hsta)]

theorem raisedError_with_mem (i : Instr) (s : State) (m : Memory) : raisedError i { s with mem := m } = raisedError i s := by
  cases i <;> rfl

/-- A completed instruction reads no cell but the one of its two-digit address. -/
theorem completedState_with_mem {i : Instr} (hi : i.wellFormed = true) {s : State} {m : Memory}
    (hm : ∀ a ≤ 99, m.peek a = s.mem.peek a) :
    completedState i { s with mem := m } =
      { completedState i s with mem := (completedState i { s with mem := m }).mem } := by
  cases i with
  | add x | sub x | lda x => simp only [completedState, hm x (of_decide_eq_true hi)]
  | _ => rfl

theorem peek_completedState_with_mem (i : Instr) {s : State} {m : Memory} (hs : s.mem.wf) (hmwf : m.wf)
    (hm : ∀ a ≤ 99, m.peek a = s.mem.peek a) :
    ∀ a ≤ 99, (completedState i { s with mem := m }).mem.peek a = (completedState i s).mem.peek a := by
  intro a ha
  cases i with
  | sta x =>
    simp only [completedState]
    by_cases hax : a = x
    · rw [hax, Memory.peek_put_self hmwf, Memory.peek_put_self hs]
    · rw [Memory.peek_put_other hax, Memory.peek_put_other hax, hm a ha]
  | _ => exact hm a ha

/-- Settles O49: a decoded instruction is well-formed, so its one address is below 100, for the write as for the read. -/
theorem cellsFrom100OnAreFetchOnly : Obligations.CellsFrom100OnAreFetchOnly := by
  refine ⟨?written, ?read⟩
  case written =>
    intro s t a hstep ha
    obtain ⟨-, ⟨-, hexec⟩ | ⟨-, rfl⟩⟩ := step_next hstep
    · rw [(exec_eq_next_iff _ _ t).mp hexec, peek_execState (wellFormed_decode _) _ ha, State.advance_mem]
    · rw [State.raise_mem]
  case read =>
    intro i s t m hi hs hmwf hm h
    obtain rfl := (exec_eq_next_iff i s t).mp h
    refine ⟨_, exec_eq_next i _, ?_⟩
    have hraised := raisedError_with_mem i s m
    rcases execState_cases i s with ⟨e, he, h⟩ | ⟨hnone, h⟩
    · rw [h, execState_of_raised (hraised.trans he)]
      exact ⟨rfl, hm⟩
    · rw [h, execState_of_completed (hraised.trans hnone)]
      exact ⟨completedState_with_mem hi hm, peek_completedState_with_mem i hs hmwf hm⟩

end Sys2Proof.Machine
